-- ==== Sys2Proof/Word.lean ====
section
/-! DEFINITION. The word types of the block: bytes of the memory window and the 64-bit registers (00_scope.md R7, R8). -/

namespace Sys2Proof

/-- A byte is 8 bits (R7). -/
abbrev Byte := BitVec 8

/-- Every register value is an unsigned 64-bit number (R8). -/
abbrev Word := BitVec 64

end Sys2Proof
end

