-- ==== Sys2Proof/Syntax.lean ====
section
/-! DEFINITION. The instructions: one constructor for each row of spec/opcode_table.json (30_encoding.md R81, R82, R89). -/

namespace Sys2Proof

/-- The six commands the host issues through `CMD`, and the six frame opcodes the frame codec decodes from byte 0 of
a frame in memory. A frame's four flags are those of byte 0: FIN, RSV1, RSV2, RSV3 (R84). -/
inductive Instr where
  /-- MASK (R142), with its key phase P. -/
  | mask (phase : Nat)
  /-- PARSE (R160), with its flag Z: in place or to `A_DST`. -/
  | parse (z : Bool)
  /-- SER (R200), with its flag M: masked or not. -/
  | ser (m : Bool)
  /-- U8RST (R223). -/
  | u8rst
  /-- U8FEED (R224). -/
  | u8feed
  /-- U8FIN (R225). -/
  | u8fin
  /-- A frame of opcode 0x0, Continuation (R89). -/
  | frameContinuation (fin rsv1 rsv2 rsv3 : Bool)
  /-- A frame of opcode 0x1, Text (R89). -/
  | frameText (fin rsv1 rsv2 rsv3 : Bool)
  /-- A frame of opcode 0x2, Binary (R89). -/
  | frameBinary (fin rsv1 rsv2 rsv3 : Bool)
  /-- A frame of opcode 0x8, Close (R89). -/
  | frameClose (fin rsv1 rsv2 rsv3 : Bool)
  /-- A frame of opcode 0x9, Ping (R89). -/
  | framePing (fin rsv1 rsv2 rsv3 : Bool)
  /-- A frame of opcode 0xA, Pong (R89). -/
  | framePong (fin rsv1 rsv2 rsv3 : Bool)
deriving DecidableEq, Repr

end Sys2Proof
end

