-- ==== Sys2Proof/WellFormed.lean ====
section
/-! DEFINITION. Which instruction terms an encoding can hold. -/

namespace Sys2Proof

/-- MASK's phase has two bits (30_encoding.md R82); a phase of 4 or more "cannot be encoded" (41_mask.md R148).
Every other operand is a single bit, so every value of it can be encoded. -/
def Instr.wf : Instr → Bool
  | .mask phase => decide (phase < 4)
  | .parse _ => true
  | .ser _ => true
  | .u8rst => true
  | .u8feed => true
  | .u8fin => true
  | .frameContinuation _ _ _ _ => true
  | .frameText _ _ _ _ => true
  | .frameBinary _ _ _ _ => true
  | .frameClose _ _ _ _ => true
  | .framePing _ _ _ _ => true
  | .framePong _ _ _ _ => true

end Sys2Proof
end

