-- ==== Sys2Proof/Decode.lean ====
section
/-! DEFINITION. The decoder of command words (40_command_issue.md R124) and of a frame's byte 0 (30_encoding.md R84, R89),
total, rejecting by name, and the encoder of each instruction written from the same tables. -/

namespace Sys2Proof

/-- Why a word is no instruction. -/
inductive DecodeError where
  /-- One of bits [63:16] of a command word is 1 (R83). -/
  | reservedBits
  /-- The command opcode is not one of the six of R81. -/
  | illegalOpcode
  /-- A flag bit the command does not use is 1 (R83). -/
  | reservedFlags
  /-- The frame opcode is one of 3-7, 11-15 (R89). -/
  | reservedFrameOpcode
deriving DecidableEq, Repr

/-- What an instruction is decoded from: a word of `CMD`, or byte 0 of a frame in memory. -/
inductive Encoded where
  | command (w : Word)
  | frameByte0 (b : Byte)
deriving DecidableEq, Repr

/-- Bits [7:0] of a command word: `OPC` (R80). -/
def commandOpcode (w : Word) : Byte := w.extractLsb' 0 8

/-- Bits [15:8] of a command word: `FLAGS` (R80). -/
def commandFlags (w : Word) : Byte := w.extractLsb' 8 8

/-- `Decode(w)` of R124. -/
def decodeCommand (w : Word) : Except DecodeError Instr :=
  if w.extractLsb' 16 48 ≠ 0#48 then .error .reservedBits
  else if commandOpcode w = 0x01#8 then
    if (commandFlags w).extractLsb' 2 6 = 0#6 then .ok (.mask ((commandFlags w).extractLsb' 0 2).toNat)
    else .error .reservedFlags
  else if commandOpcode w = 0x10#8 then
    if (commandFlags w).extractLsb' 1 7 = 0#7 then .ok (.parse ((commandFlags w).getLsbD 0)) else .error .reservedFlags
  else if commandOpcode w = 0x11#8 then
    if (commandFlags w).extractLsb' 1 7 = 0#7 then .ok (.ser ((commandFlags w).getLsbD 0)) else .error .reservedFlags
  else if commandOpcode w = 0x20#8 then
    if commandFlags w = 0#8 then .ok .u8rst else .error .reservedFlags
  else if commandOpcode w = 0x21#8 then
    if commandFlags w = 0#8 then .ok .u8feed else .error .reservedFlags
  else if commandOpcode w = 0x22#8 then
    if commandFlags w = 0#8 then .ok .u8fin else .error .reservedFlags
  else .error .illegalOpcode

/-- The frame opcode in bits [3:0] of byte 0 (R84). -/
def frameOpcode (b0 : Byte) : BitVec 4 := b0.extractLsb' 0 4

/-- The frame whose byte 0 is `b0` (R84, R89). -/
def decodeFrameByte (b0 : Byte) : Except DecodeError Instr :=
  let fin := b0.getLsbD 7
  let rsv1 := b0.getLsbD 6
  let rsv2 := b0.getLsbD 5
  let rsv3 := b0.getLsbD 4
  if frameOpcode b0 = 0x0#4 then .ok (.frameContinuation fin rsv1 rsv2 rsv3)
  else if frameOpcode b0 = 0x1#4 then .ok (.frameText fin rsv1 rsv2 rsv3)
  else if frameOpcode b0 = 0x2#4 then .ok (.frameBinary fin rsv1 rsv2 rsv3)
  else if frameOpcode b0 = 0x8#4 then .ok (.frameClose fin rsv1 rsv2 rsv3)
  else if frameOpcode b0 = 0x9#4 then .ok (.framePing fin rsv1 rsv2 rsv3)
  else if frameOpcode b0 = 0xA#4 then .ok (.framePong fin rsv1 rsv2 rsv3)
  else .error .reservedFrameOpcode

/-- The decoder of either kind of encoding. -/
def decode : Encoded → Except DecodeError Instr
  | .command w => decodeCommand w
  | .frameByte0 b => decodeFrameByte b

/-- A command word of its three fields (R80). -/
def commandWord (flags opcode : Byte) : Word := 0#48 ++ flags ++ opcode

/-- Byte 0 of a frame of its five fields (R84). -/
def frameByte0 (fin rsv1 rsv2 rsv3 : Bool) (opcode : BitVec 4) : Byte :=
  BitVec.ofBool fin ++ BitVec.ofBool rsv1 ++ BitVec.ofBool rsv2 ++ BitVec.ofBool rsv3 ++ opcode

/-- The encoding of an instruction (R82 for the commands, R84 and R89 for the frames). -/
def encode : Instr → Encoded
  | .mask phase => .command (commandWord (0#6 ++ BitVec.ofNat 2 phase) 0x01#8)
  | .parse z => .command (commandWord (0#7 ++ BitVec.ofBool z) 0x10#8)
  | .ser m => .command (commandWord (0#7 ++ BitVec.ofBool m) 0x11#8)
  | .u8rst => .command (commandWord 0#8 0x20#8)
  | .u8feed => .command (commandWord 0#8 0x21#8)
  | .u8fin => .command (commandWord 0#8 0x22#8)
  | .frameContinuation fin rsv1 rsv2 rsv3 => .frameByte0 (frameByte0 fin rsv1 rsv2 rsv3 0x0#4)
  | .frameText fin rsv1 rsv2 rsv3 => .frameByte0 (frameByte0 fin rsv1 rsv2 rsv3 0x1#4)
  | .frameBinary fin rsv1 rsv2 rsv3 => .frameByte0 (frameByte0 fin rsv1 rsv2 rsv3 0x2#4)
  | .frameClose fin rsv1 rsv2 rsv3 => .frameByte0 (frameByte0 fin rsv1 rsv2 rsv3 0x8#4)
  | .framePing fin rsv1 rsv2 rsv3 => .frameByte0 (frameByte0 fin rsv1 rsv2 rsv3 0x9#4)
  | .framePong fin rsv1 rsv2 rsv3 => .frameByte0 (frameByte0 fin rsv1 rsv2 rsv3 0xA#4)

/-- A row of the opcode table read as bits (log 14): a row of at most 8 bits is byte 0 of a frame, a wider row of at most
64 bits is a command word; a number that does not fit in `nbits` bits is no row's word. -/
def encodedOfBits (nbits w : Nat) : Option Encoded :=
  if 2 ^ nbits ≤ w then none
  else if nbits ≤ 8 then some (.frameByte0 (BitVec.ofNat 8 w))
  else if nbits ≤ 64 then some (.command (BitVec.ofNat 64 w))
  else none

/-- The instruction the decoder reads from an opcode-table word of `nbits` bits. -/
def decodeTableWord (nbits w : Nat) : Option Instr :=
  match encodedOfBits nbits w with
  | none => none
  | some e =>
    match decode e with
    | .ok i => some i
    | .error _ => none

end Sys2Proof
end

