-- ==== Sys2Proof/Config.lean ====
section
/-! DEFINITION. What an implementation fixes (00_scope.md R6) and the values the spec leaves open
(93_implementation_defined.md: "any value"). -/

namespace Sys2Proof

/-- The implementation parameters of R6 that the spec leaves OPEN.
Two are held as their distance from their least legal value, so that every value of this type is a legal choice. -/
structure Params where
  /-- `MEM_BYTES - 16`; R6 asks for 16 <= MEM_BYTES <= 2^64. -/
  memBytesLess16 : Fin 18446744073709551601
  /-- Where the host's address map places the memory window. -/
  memBase : Nat
  /-- Where the host's address map places the register space. -/
  regBase : Nat
  /-- The 128-bit masking path exists. -/
  hasV128 : Bool
  /-- The 256-bit masking path exists. -/
  hasV256 : Bool
  /-- The 512-bit masking path exists. -/
  hasV512 : Bool
  /-- `RESET_MAX_FRAME - 1`; R6 asks for 1 <= RESET_MAX_FRAME <= 2^64 - 1. -/
  resetMaxFrameLess1 : Fin 18446744073709551615
deriving DecidableEq, Repr, Inhabited

/-- `MEM_BYTES` (R6): the size of the data memory window in bytes. -/
def Params.memBytes (p : Params) : Nat := p.memBytesLess16.val + 16

/-- `RESET_MAX_FRAME` (R6, R25). -/
def Params.resetMaxFrame (p : Params) : Word := BitVec.ofNat 64 (p.resetMaxFrameLess1.val + 1)

/-- Which of the four masking paths exists (R22): the scalar one always does. -/
def Params.hasPath (p : Params) (sel : BitVec 2) : Bool :=
  if sel = 0#2 then true else if sel = 1#2 then p.hasV128 else if sel = 2#2 then p.hasV256 else p.hasV512

/-- The widest path present (R24): what `DISPATCH.SEL` holds after reset. -/
def Params.widestPath (p : Params) : BitVec 2 :=
  if p.hasV512 then 3#2 else if p.hasV256 then 2#2 else if p.hasV128 then 1#2 else 0#2

/-- The parameters of the machine that `State.reset` describes: any values R6 allows (log 1). -/
opaque Config.params : Params

/-- "Any value" of a word: a result register read while `BUSY` = 1 (R120, item I5), drawn with a counter (log 6). -/
opaque Config.freeWord : Nat → Word

/-- "Any value" of a memory byte at the power-on that `State.reset` follows (R301, item I7): one for each address (log 2). -/
opaque Config.powerOnByte : Nat → Byte

/-- "Any value" of a memory byte after a later power-on (R301, item I7) or after a reset that abandons a command (R302, item
I6): drawn with a counter and the address (logs 3, 9). -/
opaque Config.freeByte : Nat → Nat → Byte

/-- The constant of the `ID` register (R21): "WSRS" in ASCII. -/
def Config.idValue : Word := 0x0000000057535253#64

end Sys2Proof
end

