-- ==== Sys2Proof/Machine/State.lean ====
section
/-! DEFINITION. Everything the spec gives the machine (10_state.md), as plain data, with its value after reset
(70_reset_and_hazards.md R303), and the reasons the model stops. -/

namespace Sys2Proof.Machine

/-- `CTRL` (R23), field by field; its reserved fields read 0 and are not stored (R45, log 17). -/
structure Ctrl where
  /-- Bit 0, `ROLE`: 0 = Client, 1 = Server. -/
  server : Bool
  /-- Bit 1, `ACCEPT_UNMASKED`. -/
  acceptUnmasked : Bool
  /-- Bit 2, `STRICT_LEN`. -/
  strictLen : Bool
  /-- Bit 4, `CLAIM_RSV3`. -/
  claimRsv3 : Bool
  /-- Bit 5, `CLAIM_RSV2`. -/
  claimRsv2 : Bool
  /-- Bit 6, `CLAIM_RSV1`. -/
  claimRsv1 : Bool
deriving DecidableEq, Repr

/-- `STATUS.RESULT` (R27); value 3 is never produced. -/
inductive CmdResult where
  | ok
  | needMore
  | error
deriving DecidableEq, Repr

/-- `STATUS` (R27), field by field (log 17). -/
structure Status where
  busy : Bool
  result : CmdResult
  err : Byte
  closeHint : BitVec 16
  lastOp : Byte
deriving DecidableEq, Repr

/-- `RX_HDR` (R34), field by field (log 17). -/
structure RxHdr where
  b0 : Byte
  masked : Bool
  len7 : BitVec 7
  hdrLen : BitVec 4
deriving DecidableEq, Repr

/-- `RX_CLOSE` (R40), field by field (log 17). -/
structure RxClose where
  code : BitVec 16
  present : Bool
  valid : Bool
  reasonLen : BitVec 7
deriving DecidableEq, Repr

/-- The nine states of the UTF-8 validator (R220), the values of `U8_STATE` (R41). -/
inductive Utf8State where
  | accept
  | t1
  | t2
  | t3
  | e0
  | ed
  | f0
  | f4
  | reject
deriving DecidableEq, Repr

/-- The data memory window (R60): a list of (address, byte) pairs, the bytes that are known because something wrote them, whose
addresses rise strictly (`Memory.wf` in Machine/Ops.lean). A byte at an unlisted address is the one power-on left there, any
value (`Memory.background`, log 2). -/
abbrev Memory := List Host.Cell

/-- One move of the host or of the platform (R5, R94, R120, R300; logs 4, 19). -/
inductive HostMove where
  /-- A register read of `width` bytes at a byte offset of the register space. -/
  | regRead (off width : Nat)
  /-- A register write of `width` bytes. -/
  | regWrite (off width : Nat) (v : Word)
  /-- Repeat `rd STATUS` until `STATUS.BUSY` = 0. -/
  | poll
  /-- A read of one byte of the memory window. -/
  | memRead (a : Nat)
  /-- A write of one byte of the memory window. -/
  | memWrite (a : Nat) (b : Byte)
  /-- The platform asserts the block's reset (R300). -/
  | reset
  /-- The block is powered on: a reset that leaves every memory byte any value (R300, R301). -/
  | powerOn
deriving DecidableEq, Repr

/-- The host's side of the interface: the accesses still to arrive, the next one first, and the values the block has
answered, the newest first (log 4). -/
structure HostPort where
  queue : List HostMove
  reads : List Word
deriving DecidableEq, Repr

/-- The two agents of R5. -/
inductive Agent where
  | host
  | engine
deriving DecidableEq, Repr

/-- The state of the block and of its environment. INVENTORY.md lists each field with its rule. -/
structure State where
  /-- The implementation parameters (R6); no step changes them (log 1). -/
  cfg : Params
  /-- `CTRL` (R23). -/
  ctrl : Ctrl
  /-- `DISPATCH.SEL` (R24), the memoized dispatch choice of R46. -/
  sel : BitVec 2
  /-- `MAX_FRAME` (R25). -/
  maxFrame : Word
  /-- `CMD` (R26); while `BUSY` = 1 it is the pending command of R46. -/
  cmd : Word
  /-- `STATUS` (R27). -/
  status : Status
  /-- `ERR_INFO0` (R28). -/
  errInfo0 : Word
  /-- `ERR_INFO1` (R28). -/
  errInfo1 : Word
  /-- `A_SRC` (R29). -/
  aSrc : Word
  /-- `A_DST` (R29). -/
  aDst : Word
  /-- `A_LEN` (R29). -/
  aLen : Word
  /-- `KEY` (R30): bits [31:0]. -/
  key : BitVec 32
  /-- `TX_HDR` (R31): bits [7:0]. -/
  txHdr : Byte
  /-- `TX_OUT_LEN` (R32). -/
  txOutLen : Word
  /-- `MASK_PHASE` (R33): bits [1:0]. -/
  maskPhase : BitVec 2
  /-- `RX_HDR` (R34). -/
  rxHdr : RxHdr
  /-- `RX_LEN` (R35). -/
  rxLen : Word
  /-- `RX_KEY` (R36): bits [31:0]. -/
  rxKey : BitVec 32
  /-- `RX_PAYLOAD` (R37). -/
  rxPayload : Word
  /-- `RX_CONSUMED` (R38). -/
  rxConsumed : Word
  /-- `RX_NEED` (R39). -/
  rxNeed : Word
  /-- `RX_CLOSE` (R40). -/
  rxClose : RxClose
  /-- `U8_STATE` (R41). -/
  u8State : Utf8State
  /-- `U8_COUNT` (R42). -/
  u8Count : Word
  /-- `VKEY` (R46): present only during a masking command (log 16). -/
  vkey : Option (List Byte)
  /-- The data memory window (R47, R60). -/
  mem : Memory
  /-- The host's side of the interface (log 4). -/
  port : HostPort
  /-- Who moves next while both agents can; the engine once the list is used up (log 5). -/
  turns : List Agent
  /-- How many free values have been drawn (log 6). -/
  draws : Nat
deriving DecidableEq, Repr

/-- Why the model stops with a fault. Only a host move raises one; no command does. -/
inductive Fault where
  /-- Raised by a host memory access to the running command's read or write ranges while `BUSY` = 1: a host duty
  (R310, item I9: stuck). Safe: the model stops where hardware may go on (log 7). -/
  | hostTouchesRunningRange
  /-- Raised by a host memory access outside the window, where no byte exists (R60). Safe (log 11). -/
  | hostOutsideWindow
deriving DecidableEq, Repr

/-- Why the model refuses a move. -/
inductive Refusal where
  /-- An instruction without a meaning, by its mnemonic; raised by no arm of exec. Safe. -/
  | notModelled (mnemonic : String)
  /-- Raised by a host register access that is not 8 bytes wide at a multiple of 8 (R44, item I8). Safe (log 10). -/
  | registerAccessForm
  /-- Raised by a host register access at or above offset 0x100, which "are not part of the block" (R43). Safe (log 10). -/
  | outsideRegisterSpace
deriving DecidableEq, Repr

/-- The state after power-on for parameters `p` and memory contents `m`: every register at its value of R303. -/
def State.powerOn (p : Params) (m : Memory) : State where
  cfg := p
  ctrl :=
    { server := false, acceptUnmasked := false, strictLen := true, claimRsv3 := false, claimRsv2 := false,
      claimRsv1 := false }
  sel := p.widestPath
  maxFrame := p.resetMaxFrame
  cmd := 0#64
  status := { busy := false, result := .ok, err := 0#8, closeHint := 0#16, lastOp := 0#8 }
  errInfo0 := 0#64
  errInfo1 := 0#64
  aSrc := 0#64
  aDst := 0#64
  aLen := 0#64
  key := 0#32
  txHdr := 0#8
  txOutLen := 0#64
  maskPhase := 0#2
  rxHdr := { b0 := 0#8, masked := false, len7 := 0#7, hdrLen := 0#4 }
  rxLen := 0#64
  rxKey := 0#32
  rxPayload := 0#64
  rxConsumed := 0#64
  rxNeed := 0#64
  rxClose := { code := 0#16, present := false, valid := false, reasonLen := 0#7 }
  u8State := .accept
  u8Count := 0#64
  vkey := none
  mem := m
  port := { queue := [], reads := [] }
  turns := []
  draws := 0

/-- The machine right after reset (R303), memory with nothing listed. -/
def State.reset : State := State.powerOn Config.params []

/-- The pending command of R46: the word in `CMD`, exactly while `BUSY` = 1. -/
def State.pending (s : State) : Option Word := if s.status.busy then some s.cmd else none

end Sys2Proof.Machine
end

