-- ==== Sys2Proof/Machine/Flags.lean ====
section
/-! DEFINITION. The error kinds and their codes (60_exceptions.md R260), the close hints (R263), and `STATUS`, the block's
only flags, as a command's completion writes it (40_command_issue.md R123). -/

namespace Sys2Proof.Machine

/-- The error kinds of R260. Those R266 says the block never raises keep their codes and are raised nowhere. -/
inductive ErrorKind where
  | incompleteFrame
  | invalidOpcode
  | reservedOpcode
  | reservedBitsSet
  | fragmentedControlFrame
  | controlFrameTooLarge
  | unmaskedClientFrame
  | maskedServerFrame
  | frameTooLarge
  | messageTooLarge
  | tooManyFragments
  | invalidUtf8
  | invalidCloseCode
  | protocolViolation
  | connectionClosed
  | invalidHandshake
  | extension
  | io
  | illegalCommand
  | boundsFault
deriving DecidableEq, Repr

/-- The code written to `STATUS.ERR` (R260). -/
def ErrorKind.code : ErrorKind → Byte
  | .incompleteFrame => 0x01#8
  | .invalidOpcode => 0x02#8
  | .reservedOpcode => 0x03#8
  | .reservedBitsSet => 0x04#8
  | .fragmentedControlFrame => 0x05#8
  | .controlFrameTooLarge => 0x06#8
  | .unmaskedClientFrame => 0x07#8
  | .maskedServerFrame => 0x08#8
  | .frameTooLarge => 0x09#8
  | .messageTooLarge => 0x0A#8
  | .tooManyFragments => 0x0B#8
  | .invalidUtf8 => 0x0C#8
  | .invalidCloseCode => 0x0D#8
  | .protocolViolation => 0x0E#8
  | .connectionClosed => 0x0F#8
  | .invalidHandshake => 0x10#8
  | .extension => 0x11#8
  | .io => 0x12#8
  | .illegalCommand => 0x40#8
  | .boundsFault => 0x41#8

/-- An error with its two operands (R261). -/
structure CmdError where
  kind : ErrorKind
  info0 : Word
  info1 : Word
deriving DecidableEq, Repr

/-- The table of R263: the close code suggested for an error raised on inbound data. -/
def ErrorKind.inboundHint : ErrorKind → BitVec 16
  | .invalidUtf8 => 1007#16
  | .frameTooLarge => 1009#16
  | .reservedOpcode => 1002#16
  | .reservedBitsSet => 1002#16
  | .fragmentedControlFrame => 1002#16
  | .controlFrameTooLarge => 1002#16
  | .unmaskedClientFrame => 1002#16
  | .maskedServerFrame => 1002#16
  | .protocolViolation => 1002#16
  | .illegalCommand => 0#16
  | .boundsFault => 0#16
  | .incompleteFrame => 0#16
  | .invalidOpcode => 0#16
  | .messageTooLarge => 0#16
  | .tooManyFragments => 0#16
  | .invalidCloseCode => 0#16
  | .connectionClosed => 0#16
  | .invalidHandshake => 0#16
  | .extension => 0#16
  | .io => 0#16

/-- Where an error comes from, as R263 tells its close hint apart. -/
inductive ErrorSource where
  /-- PARSE, after reading byte 0 with this frame opcode. -/
  | parsedFrame (opcode : BitVec 4)
  /-- The streaming validator, or PARSE before it has read byte 0. -/
  | inbound
  /-- SER and MASK, and the command decoder. -/
  | outbound
deriving DecidableEq, Repr

/-- `hint(e)` of R263. A PARSE error on a Close frame and every SER error hint 0. -/
def closeHint (src : ErrorSource) (e : ErrorKind) : BitVec 16 :=
  match src with
  | .parsedFrame opcode => if opcode = 8#4 then 0#16 else e.inboundHint
  | .inbound => e.inboundHint
  | .outbound => 0#16

/-- The two bits of `STATUS.RESULT` (R27). -/
def CmdResult.code : CmdResult → BitVec 2
  | .ok => 0#2
  | .needMore => 1#2
  | .error => 2#2

/-- `STATUS` after the completion of the command in `CMD` word `w` (R123). -/
def Status.completed (w : Word) (r : CmdResult) (err : Byte) (hint : BitVec 16) : Status :=
  { busy := false, result := r, err := err, closeHint := hint, lastOp := w.extractLsb' 0 8 }

end Sys2Proof.Machine
end

