-- ==== Sys2Proof/Machine/Ops.lean ====
section
/-! DEFINITION. The operations over memory (20_memory.md): bytes, byte lists, the canonical form, the range check, and the
big-endian numbers of the wire (00_scope.md R8); and the completion of a command, with the one way to take an error
(40_command_issue.md R123, 60_exceptions.md R262). -/

namespace Sys2Proof.Machine

/-- What an unlisted address reads as: the byte power-on left there, any value (R301, item I7, log 2). -/
def Memory.background (a : Nat) : Byte := Config.powerOnByte a

/-- The canonical form: addresses strictly rising. No entry equals what an unlisted address holds, which is no known byte
(log 2). -/
def Memory.wf : Memory → Bool
  | [] => true
  | (a, _) :: t => t.all (fun c => decide (a < c.1)) && Memory.wf t

/-- The byte listed for an address, none where nothing has written one. -/
def Memory.find : Memory → Nat → Option Byte
  | [], _ => none
  | (x, b) :: t, a => if x = a then some b else Memory.find t a

/-- One byte of memory. -/
def Memory.read (m : Memory) (a : Nat) : Byte := (m.find a).getD (Memory.background a)

/-- Write one byte, keeping the canonical form. -/
def Memory.write : Memory → Nat → Byte → Memory
  | [], a, b => [(a, b)]
  | (x, c) :: t, a, b =>
    if x < a then (x, c) :: Memory.write t a b
    else if x = a then (a, b) :: t
    else (a, b) :: (x, c) :: t

/-- `MemRead(a, n)` of R9: the bytes at `a`, `a + 1`, ... -/
def Memory.readBytes (m : Memory) (a : Nat) : Nat → List Byte
  | 0 => []
  | n + 1 => m.read a :: Memory.readBytes m (a + 1) n

/-- `MemWrite(a, n, bs)` of R9: the bytes of `bs` at `a`, `a + 1`, ... -/
def Memory.writeBytes (m : Memory) (a : Nat) : List Byte → Memory
  | [] => m
  | b :: bs => Memory.writeBytes (m.write a b) (a + 1) bs

/-- `InRange(a, n)` of R10, in unbounded numbers. -/
def State.inRange (s : State) (a n : Nat) : Bool := decide (n = 0) || decide (a + n ≤ s.cfg.memBytes)

/-- `BoundsFault(a, n)` (R63, R261). -/
def boundsFault (a n : Nat) : CmdError := ⟨.boundsFault, BitVec.ofNat 64 a, BitVec.ofNat 64 n⟩

/-- `BE_n` of R8: the big-endian number of a byte list. -/
def beNat (bs : List Byte) : Nat := bs.foldl (fun acc b => acc * 256 + b.toNat) 0

/-- The `n` big-endian bytes of a number (R61, R201). -/
def beBytes : Nat → Nat → List Byte
  | 0, _ => []
  | n + 1, v => BitVec.ofNat 8 (v / 256 ^ n) :: beBytes n v

/-! ## Completion -/

/-- `end(outcome)` of R123: `STATUS` and the error operands are written and `BUSY` falls; the vector key, which "lives only
during" a command (R46), is gone. -/
def State.complete (s : State) (r : CmdResult) (err : Byte) (hint : BitVec 16) (i0 i1 : Word) : State :=
  { s with status := Status.completed s.cmd r err hint, errInfo0 := i0, errInfo1 := i1, vkey := none }

/-- `finish()` of R9 and R123. -/
def State.finish (s : State) : State := s.complete .ok 0#8 0#16 0#64 0#64

/-- `needmore(n)` of R9, R123 and R170. -/
def State.needMore (s : State) (n : Nat) : State :=
  { s with rxNeed := BitVec.ofNat 64 n }.complete .needMore 0#8 0#16 0#64 0#64

/-- `raise E(i0, i1)` of R9 and R262: the ONE way a command takes an error. There is no return from it: the next accepted
command overwrites what it saved (R268). -/
def State.raise (s : State) (src : ErrorSource) (e : CmdError) : State :=
  s.complete .error e.kind.code (closeHint src e.kind) e.info0 e.info1

end Sys2Proof.Machine
end

