-- ==== Sys2Proof/Machine/Operands.lean ====
section
/-! DEFINITION. The operand forms: the packings of the registers (10_state.md), the key bytes, and the header fields of a
frame on the wire (30_encoding.md R84-R91). -/

namespace Sys2Proof.Machine

/-! ## The registers as 64-bit words -/

/-- `CTRL` as a word (R23). -/
def Ctrl.toWord (c : Ctrl) : Word :=
  0#57 ++ BitVec.ofBool c.claimRsv1 ++ BitVec.ofBool c.claimRsv2 ++ BitVec.ofBool c.claimRsv3 ++ 0#1 ++
    BitVec.ofBool c.strictLen ++ BitVec.ofBool c.acceptUnmasked ++ BitVec.ofBool c.server

/-- The defined fields of a word written to `CTRL` (R23, R45). -/
def Ctrl.ofWord (w : Word) : Ctrl :=
  { server := w.getLsbD 0, acceptUnmasked := w.getLsbD 1, strictLen := w.getLsbD 2, claimRsv3 := w.getLsbD 4,
    claimRsv2 := w.getLsbD 5, claimRsv1 := w.getLsbD 6 }

/-- `CTRL AND 0x70`: the claimed RSV bits at their byte-0 positions (R23, R162). -/
def Ctrl.claimed (c : Ctrl) : Byte :=
  0#1 ++ BitVec.ofBool c.claimRsv1 ++ BitVec.ofBool c.claimRsv2 ++ BitVec.ofBool c.claimRsv3 ++ 0#4

/-- `CAP` as a word (R22). -/
def capWord (p : Params) : Word :=
  0#60 ++ BitVec.ofBool p.hasV512 ++ BitVec.ofBool p.hasV256 ++ BitVec.ofBool p.hasV128 ++ 1#1

/-- `STATUS` as a word (R27). -/
def Status.toWord (t : Status) : Word :=
  0#24 ++ t.lastOp ++ t.closeHint ++ t.err ++ 0#5 ++ t.result.code ++ BitVec.ofBool t.busy

/-- `RX_HDR` as a word (R34). -/
def RxHdr.toWord (h : RxHdr) : Word := 0#44 ++ h.hdrLen ++ h.len7 ++ BitVec.ofBool h.masked ++ h.b0

/-- `RX_CLOSE` as a word (R40). -/
def RxClose.toWord (c : RxClose) : Word :=
  0#33 ++ c.reasonLen ++ 0#6 ++ BitVec.ofBool c.valid ++ BitVec.ofBool c.present ++ c.code

/-- The code of a validator state (R220), the value of `U8_STATE[3:0]`. -/
def Utf8State.code : Utf8State → BitVec 4
  | .accept => 0#4
  | .t1 => 1#4
  | .t2 => 2#4
  | .t3 => 3#4
  | .e0 => 4#4
  | .ed => 5#4
  | .f0 => 6#4
  | .f4 => 7#4
  | .reject => 8#4

/-! ## The mask key -/

/-- Key byte `j mod 4` in wire order: `KEY[31:24]` is key[0] (R30, D9). -/
def keyByte (k : BitVec 32) (j : Nat) : Byte := k.extractLsb' (8 * (3 - j % 4)) 8

/-- The four key bytes in wire order (R30, R87). -/
def keyBytes (k : BitVec 32) : List Byte := [keyByte k 0, keyByte k 1, keyByte k 2, keyByte k 3]

/-- `BE_4(key)` (R171). -/
def keyOfBytes (bs : List Byte) : BitVec 32 := BitVec.ofNat 32 (beNat bs)

/-! ## The header fields of a frame -/

/-- A reserved frame opcode: 3-7 and 11-15 (R89). -/
def reservedFrameOpcode (op : BitVec 4) : Bool :=
  (decide (3 ≤ op.toNat) && decide (op.toNat ≤ 7)) || decide (11 ≤ op.toNat)

/-- A control frame's opcode: 8, 9 or 10 (R89). -/
def controlFrameOpcode (op : BitVec 4) : Bool := decide (op = 8#4) || decide (op = 9#4) || decide (op = 10#4)

/-- FIN, bit 7 of byte 0 (R84). -/
def finBit (b0 : Byte) : Bool := b0.getLsbD 7

/-- MASK, bit 7 of byte 1 (R85). -/
def maskBit (b1 : Byte) : Bool := b1.getLsbD 7

/-- LEN7, bits [6:0] of byte 1 (R85). -/
def len7 (b1 : Byte) : BitVec 7 := b1.extractLsb' 0 7

/-- `EXT`, the bytes of the extended length (R86). -/
def extBytes (l7 : BitVec 7) : Nat := if l7 = 126#7 then 2 else if l7 = 127#7 then 8 else 0

/-- `HDR_LEN = 2 + EXT + 4 * MASK` (R88). -/
def headerLen (l7 : BitVec 7) (mk : Bool) : Nat := 2 + extBytes l7 + (if mk then 4 else 0)

/-- The payload length a header gives, from LEN7 and the bytes after byte 1 (R86). -/
def wireLength (l7 : BitVec 7) (rest : List Byte) : Nat :=
  if extBytes l7 = 0 then l7.toNat else beNat (rest.take (extBytes l7))

/-- `Shortest(len)` of R201: LEN7 of the shortest length form (R91). -/
def shortestLen7 (len : Nat) : BitVec 7 :=
  if len ≤ 125 then BitVec.ofNat 7 len else if len ≤ 65535 then 126#7 else 127#7

/-- A length form is minimal exactly when it is the shortest (R91). -/
def minimalForm (l7 : BitVec 7) (len : Nat) : Bool :=
  !((decide (extBytes l7 = 2) && decide (len < 126)) || (decide (extBytes l7 = 8) && decide (len < 65536)))

/-- The raised RSV bits that nobody claimed, at their byte-0 positions (R162, R202). -/
def unclaimedRsv (c : Ctrl) (b0 : Byte) : Byte := (b0 &&& 0x70#8) &&& ~~~ c.claimed

/-- A byte as an error operand. -/
def byteWord (b : Byte) : Word := b.setWidth 64

/-- A frame opcode as an error operand. -/
def opcodeWord (op : BitVec 4) : Word := op.setWidth 64

/-- `Valid(code)` of R169: the sendable close codes. -/
def sendableCloseCode (code : Nat) : Bool :=
  (decide (1000 ≤ code) && decide (code ≤ 1003)) || (decide (1007 ≤ code) && decide (code ≤ 1011)) ||
    (decide (3000 ≤ code) && decide (code ≤ 4999))

/-- The slice `A_LEN` bytes long at `A_SRC` (R29). -/
def State.slice (s : State) : List Byte := s.mem.readBytes s.aSrc.toNat s.aLen.toNat

end Sys2Proof.Machine
end

