-- ==== Sys2Proof/Machine/Pipeline.lean ====
section
/-! DEFINITION. The masking function (41_mask.md R140) and the width-dispatched pipeline that computes it (R143-R145). -/

namespace Sys2Proof.Machine

/-- `MaskRef(bs, k, P)` of R140: byte i is XORed with key byte (i + P) mod 4. -/
def maskRef : List Byte → BitVec 32 → Nat → List Byte
  | [], _, _ => []
  | b :: bs, k, p => (b ^^^ keyByte k p) :: maskRef bs k (p + 1)

/-- The vector width W in bytes of a masking path (R143). -/
def laneBytes (sel : BitVec 2) : Nat :=
  if sel = 0#2 then 4 else if sel = 1#2 then 16 else if sel = 2#2 then 32 else 64

/-- The head's length `h`: up to the first W-aligned address (R144). -/
def headLen (w a n : Nat) : Nat := min n ((w - a % w) % w)

/-- The number `q` of bulk vectors (R144). -/
def bulkVectors (w a n : Nat) : Nat := (n - headLen w a n) / w

/-- `VKEY`: the key rotated by `r` and replicated to W bytes (R145). -/
def vectorKey (w : Nat) (k : BitVec 32) (r : Nat) : List Byte := (List.range w).map (fun b => keyByte k (r + b))

/-- One bulk vector XORed with the vector key, lane by lane (R143, R144). -/
def xorLanes (v vkey : List Byte) : List Byte := List.zipWith (fun x y => x ^^^ y) v vkey

/-- `q` bulk vectors, W bytes each (R144). -/
def xorVectors (w : Nat) (vkey : List Byte) : Nat → List Byte → List Byte
  | 0, _ => []
  | q + 1, bs => xorLanes (bs.take w) vkey ++ xorVectors w vkey q (bs.drop w)

/-- Form `VKEY` for the slice (a, n) with phase P, on the path `DISPATCH.SEL` selects (R145). -/
def State.formVKey (s : State) (k : BitVec 32) (p a n : Nat) : State :=
  { s with vkey := some (vectorKey (laneBytes s.sel) k ((p + headLen (laneBytes s.sel) a n) % 4)) }

/-- The pipeline on the bytes of the slice at `a`: head and tail by the scalar rule, the bulk by `VKEY` (R144). -/
def State.pipeline (s : State) (k : BitVec 32) (p a : Nat) (bs : List Byte) : List Byte :=
  let w := laneBytes s.sel
  let h := headLen w a bs.length
  let q := bulkVectors w a bs.length
  maskRef (bs.take h) k p ++ xorVectors w (s.vkey.getD []) q (bs.drop h) ++
    maskRef (bs.drop (h + q * w)) k (p + h + q * w)

/-- Mask the slice `bs` at address `a` from phase P: form the vector key, then run the pipeline (log 15). -/
def State.maskSlice (s : State) (k : BitVec 32) (p a : Nat) (bs : List Byte) : List Byte :=
  (s.formVKey k p a bs.length).pipeline k p a bs

/-- The masking inside PARSE and SER (R166, R204): from phase 0 with the key when there is one, else with the zero key,
which leaves the bytes as they are. -/
def State.maskPayload (s : State) (masked : Bool) (k : BitVec 32) (a : Nat) (bs : List Byte) : List Byte :=
  if masked then s.maskSlice k 0 a bs else maskRef bs 0#32 0

end Sys2Proof.Machine
end

