-- ==== Sys2Proof/Machine/Utf8.lean ====
section
/-! DEFINITION. The streaming UTF-8 validator family (44_utf8.md): the automaton of R221, and U8RST, U8FEED, U8FIN. -/

namespace Sys2Proof.Machine

/-- A byte lies in a range of the table of R221. -/
def byteIn (b : Byte) (lo hi : Nat) : Bool := decide (lo ≤ b.toNat) && decide (b.toNat ≤ hi)

/-- The row ACCEPT of R221. -/
def deltaAccept (b : Byte) : Utf8State :=
  if byteIn b 0x00 0x7F then .accept
  else if byteIn b 0xC2 0xDF then .t1
  else if byteIn b 0xE0 0xE0 then .e0
  else if byteIn b 0xE1 0xEC then .t2
  else if byteIn b 0xED 0xED then .ed
  else if byteIn b 0xEE 0xEF then .t2
  else if byteIn b 0xF0 0xF0 then .f0
  else if byteIn b 0xF1 0xF3 then .t3
  else if byteIn b 0xF4 0xF4 then .f4
  else .reject

/-- `delta(s, b)` of R221 (which the spec marks as general knowledge; log 22). -/
def delta (s : Utf8State) (b : Byte) : Utf8State :=
  match s with
  | .accept => deltaAccept b
  | .t1 => if byteIn b 0x80 0xBF then .accept else .reject
  | .t2 => if byteIn b 0x80 0xBF then .t1 else .reject
  | .t3 => if byteIn b 0x80 0xBF then .t2 else .reject
  | .e0 => if byteIn b 0xA0 0xBF then .t1 else .reject
  | .ed => if byteIn b 0x80 0x9F then .t1 else .reject
  | .f0 => if byteIn b 0x90 0xBF then .t2 else .reject
  | .f4 => if byteIn b 0x80 0x8F then .t2 else .reject
  | .reject => .reject

/-- What a run of the automaton over a slice comes to. -/
inductive FeedResult where
  /-- No byte drove the state to REJECT; the state at the slice's end. -/
  | ends (s : Utf8State)
  /-- The byte at this offset drove the state to REJECT; the state before that byte. -/
  | rejects (at' : Nat) (before : Utf8State)
deriving DecidableEq, Repr

/-- The loop of R224 (and of R168): the automaton over a slice whose first byte has offset `i`. -/
def feed (s : Utf8State) (i : Nat) : List Byte → FeedResult
  | [] => .ends s
  | b :: bs => if delta s b = .reject then .rejects i s else feed (delta s b) (i + 1) bs

/-- `InvalidUtf8(i, s)` (R261). -/
def invalidUtf8 (i : Word) (s : Utf8State) : CmdError := ⟨.invalidUtf8, i, s.code.setWidth 64⟩

/-- U8RST (R223). -/
def execU8rst (s : State) : Host.Outcome State Fault Refusal :=
  .next { s with u8State := .accept, u8Count := 0#64 }.finish

/-- U8FEED (R224): advance the validator over `A_LEN` bytes at `A_SRC`. -/
def execU8feed (s : State) : Host.Outcome State Fault Refusal :=
  if s.inRange s.aSrc.toNat s.aLen.toNat then
    if s.u8State = .reject then .next (s.raise .inbound (invalidUtf8 0#64 .reject))
    else
      match feed s.u8State 0 s.slice with
      | .ends t => .next { s with u8State := t, u8Count := s.u8Count + s.aLen }.finish
      | .rejects i t =>
        .next
          ({ s with u8State := .reject, u8Count := s.u8Count + BitVec.ofNat 64 i }.raise .inbound
            (invalidUtf8 (BitVec.ofNat 64 i) t))
  else .next (s.raise .inbound (boundsFault s.aSrc.toNat s.aLen.toNat))

/-- U8FIN (R225): require the accepting state at the end of a message. -/
def execU8fin (s : State) : Host.Outcome State Fault Refusal :=
  if s.u8State = .accept then .next { s with u8Count := 0#64 }.finish
  else .next ({ s with u8State := .reject }.raise .inbound (invalidUtf8 s.u8Count s.u8State))

end Sys2Proof.Machine
end

