-- ==== Sys2Proof/Machine/Parse.lean ====
section
/-! DEFINITION. The frame parser (42_frame_parse.md): the checks of R162-R165 in their order, the Close decode of R168, the
payload placement of R167 and the results of R171, and PARSE. -/

namespace Sys2Proof.Machine

/-- How the checks of a PARSE end it: `needmore(n)` or `raise`. -/
inductive ParseStop where
  | needMore (n : Nat)
  | error (e : CmdError)
deriving DecidableEq, Repr

/-- A frame whose header and payload bytes are all present and whose header passed every check. -/
structure FrameHeader where
  b0 : Byte
  b1 : Byte
  /-- The decoded payload length (R86). -/
  len : Nat
  /-- The mask key, 0 when MASK = 0 (R160). -/
  key : BitVec 32
deriving DecidableEq, Repr

/-- `HDR_LEN` of a parsed header (R88). -/
def FrameHeader.hdrLen (h : FrameHeader) : Nat := headerLen (len7 h.b1) (maskBit h.b1)

/-- `CheckByte0(b0)` of R162. -/
def checkByte0 (c : Ctrl) (b0 : Byte) : Option CmdError :=
  if reservedFrameOpcode (frameOpcode b0) then
    some ⟨.reservedOpcode, opcodeWord (frameOpcode b0), byteWord b0⟩
  else if controlFrameOpcode (frameOpcode b0) && !finBit b0 then
    some ⟨.fragmentedControlFrame, opcodeWord (frameOpcode b0), byteWord b0⟩
  else if unclaimedRsv c b0 ≠ 0#8 then some ⟨.reservedBitsSet, byteWord (unclaimedRsv c b0), byteWord b0⟩
  else none

/-- `CheckRole(b1)` of R164. -/
def checkRole (c : Ctrl) (b1 : Byte) : Option CmdError :=
  if c.server && !maskBit b1 && !c.acceptUnmasked then some ⟨.unmaskedClientFrame, byteWord b1, 0#64⟩
  else if !c.server && maskBit b1 then some ⟨.maskedServerFrame, byteWord b1, 0#64⟩
  else none

/-- The checks inside `DecodeLength` of R163: the top bit of a 64-bit length, then the minimal form. -/
def checkLengthForm (c : Ctrl) (l7 : BitVec 7) (len : Nat) : Option CmdError :=
  if extBytes l7 = 8 ∧ 2 ^ 63 ≤ len then some ⟨.protocolViolation, 1#64, BitVec.ofNat 64 len⟩
  else if c.strictLen && !minimalForm l7 len then some ⟨.protocolViolation, 2#64, BitVec.ofNat 64 len⟩
  else none

/-- `CheckLength(ctl, len)` of R163. -/
def checkLength (maxFrame : Word) (op : BitVec 4) (len : Nat) : Option CmdError :=
  if controlFrameOpcode op ∧ 125 < len then some ⟨.controlFrameTooLarge, BitVec.ofNat 64 len, 125#64⟩
  else if maxFrame.toNat < len then some ⟨.frameTooLarge, BitVec.ofNat 64 len, maxFrame⟩
  else none

/-- The header stage and the length of the payload stage of R160, on the buffered bytes: every check in the order of R160,
with NEED_MORE at the points of R165. -/
def parseHeader (c : Ctrl) (maxFrame : Word) : List Byte → Except ParseStop FrameHeader
  | [] => .error (.needMore 2)
  | [_] => .error (.needMore 1)
  | b0 :: b1 :: rest =>
    match (checkByte0 c b0).or (checkRole c b1) with
    | some e => .error (.error e)
    | none =>
      if rest.length < extBytes (len7 b1) then
        .error (.needMore (headerLen (len7 b1) (maskBit b1) - (rest.length + 2)))
      else
        match (checkLengthForm c (len7 b1) (wireLength (len7 b1) rest)).or
            (checkLength maxFrame (frameOpcode b0) (wireLength (len7 b1) rest)) with
        | some e => .error (.error e)
        | none =>
          if rest.length + 2 < headerLen (len7 b1) (maskBit b1) then
            .error (.needMore (headerLen (len7 b1) (maskBit b1) - (rest.length + 2)))
          else if rest.length + 2 - headerLen (len7 b1) (maskBit b1) < wireLength (len7 b1) rest then
            .error (.needMore
              (headerLen (len7 b1) (maskBit b1) + wireLength (len7 b1) rest - (rest.length + 2)))
          else
            .ok
              { b0 := b0
                b1 := b1
                len := wireLength (len7 b1) rest
                key := if maskBit b1 then keyOfBytes ((rest.drop (extBytes (len7 b1))).take 4) else 0#32 }

/-- `CloseDecode(p, len)` of R168, on the unmasked payload. -/
def closeDecode : List Byte → Except CmdError RxClose
  | [] => .ok { code := 1005#16, present := false, valid := false, reasonLen := 0#7 }
  | [_] => .error ⟨.protocolViolation, 3#64, 1#64⟩
  | c0 :: c1 :: reason =>
    match feed .accept 2 reason with
    | .rejects j t => .error (invalidUtf8 (BitVec.ofNat 64 j) t)
    | .ends t =>
      if t = .accept then
        .ok
          { code := c0 ++ c1
            present := true
            valid := sendableCloseCode (beNat [c0, c1])
            reasonLen := BitVec.ofNat 7 reason.length }
      else .error (invalidUtf8 (BitVec.ofNat 64 (reason.length + 2)) t)

/-- `RX_CLOSE` of a frame with opcode `op` and unmasked payload `p` (R160, R171): decoded on a Close frame, else 0. -/
def rxCloseOf (op : BitVec 4) (p : List Byte) : Except CmdError RxClose :=
  if op = 8#4 then closeDecode p
  else .ok { code := 0#16, present := false, valid := false, reasonLen := 0#7 }

/-- A PARSE that ends in an error writes `RX_NEED <- 0` (R170, R262). -/
def State.parseRaise (s : State) (src : ErrorSource) (e : CmdError) : State :=
  { s with rxNeed := 0#64 }.raise src e

/-- `WriteResults` of R171, and its completion. -/
def State.parseDone (s : State) (h : FrameHeader) (payloadAt : Word) (close : RxClose) : State :=
  { s with
    rxHdr :=
      { b0 := h.b0, masked := maskBit h.b1, len7 := len7 h.b1, hdrLen := BitVec.ofNat 4 h.hdrLen }
    rxLen := BitVec.ofNat 64 h.len
    rxKey := h.key
    rxPayload := payloadAt
    rxConsumed := BitVec.ofNat 64 (h.hdrLen + h.len)
    rxNeed := 0#64
    rxClose := close }.finish

/-- `PlacePayload` of R167, then the results. -/
def State.placePayload (s : State) (z : Bool) (h : FrameHeader) (p : List Byte) (close : RxClose) : State :=
  let hl := h.hdrLen
  if z then
    { s with mem := if maskBit h.b1 then s.mem.writeBytes (s.aSrc.toNat + hl) p else s.mem }.parseDone h
      (s.aSrc + BitVec.ofNat 64 hl) close
  else if s.inRange s.aDst.toNat h.len then
    { s with mem := s.mem.writeBytes s.aDst.toNat p }.parseDone h s.aDst close
  else s.parseRaise (.parsedFrame (frameOpcode h.b0)) (boundsFault s.aDst.toNat h.len)

/-- The stages of PARSE after the header: unmask (R166), decode a Close payload (R168), place the payload (R167). -/
def State.parsePayload (s : State) (z : Bool) (buf : List Byte) (h : FrameHeader) : State :=
  let hl := h.hdrLen
  let p := s.maskPayload (maskBit h.b1) h.key (s.aSrc.toNat + hl) ((buf.drop hl).take h.len)
  match rxCloseOf (frameOpcode h.b0) p with
  | .error e => s.parseRaise (.parsedFrame (frameOpcode h.b0)) e
  | .ok close => s.placePayload z h p close

/-- Where a PARSE error on these buffered bytes comes from, for its close hint (R263). -/
def parseSource (buf : List Byte) : ErrorSource :=
  match buf with
  | [] => .inbound
  | b0 :: _ => .parsedFrame (frameOpcode b0)

/-- PARSE with flag Z on the buffered bytes `buf` (R160, R161). -/
def State.parseBuffer (s : State) (z : Bool) (buf : List Byte) : State :=
  if s.inRange s.aSrc.toNat s.aLen.toNat then
    match parseHeader s.ctrl s.maxFrame buf with
    | .error (.needMore n) => s.needMore n
    | .error (.error e) => s.parseRaise (parseSource buf) e
    | .ok h => s.parsePayload z buf h
  else s.parseRaise .inbound (boundsFault s.aSrc.toNat s.aLen.toNat)

/-- PARSE (R160): parse one frame from the `A_LEN` buffered bytes at `A_SRC`. -/
def execParse (z : Bool) (s : State) : Host.Outcome State Fault Refusal := .next (s.parseBuffer z s.slice)

end Sys2Proof.Machine
end

