-- ==== Sys2Proof/Machine/Frames.lean ====
section
/-! DEFINITION. The frame family: what the frame codec does with a frame of each defined opcode (30_encoding.md R84, R89).
A frame comes to the block in memory, and the codec decodes it when a PARSE is pending; so the meaning of a frame whose byte 0
is given is that PARSE on the `A_LEN` buffered bytes at `A_SRC` whose first byte is this one, with the flag Z of the pending
command word (log 12). -/

namespace Sys2Proof.Machine

/-- The flag Z of the command word in `CMD` (R82). -/
def State.pendingZ (s : State) : Bool := s.cmd.getLsbD 8

/-- The buffered bytes with byte 0 given; an empty buffer holds no byte 0. -/
def withByte0 (b0 : Byte) : List Byte → List Byte
  | [] => []
  | _ :: t => b0 :: t

/-- The frame codec on the buffered frame whose byte 0 is `b0`. -/
def State.codecFrame (s : State) (b0 : Byte) : State := s.parseBuffer s.pendingZ (withByte0 b0 s.slice)

/-- A Continuation frame (R89): a data frame. -/
def execFrameContinuation (fin rsv1 rsv2 rsv3 : Bool) (s : State) : Host.Outcome State Fault Refusal :=
  .next (s.codecFrame (frameByte0 fin rsv1 rsv2 rsv3 0x0#4))

/-- A Text frame (R89): a data frame, whose payload PARSE does not validate (R172). -/
def execFrameText (fin rsv1 rsv2 rsv3 : Bool) (s : State) : Host.Outcome State Fault Refusal :=
  .next (s.codecFrame (frameByte0 fin rsv1 rsv2 rsv3 0x1#4))

/-- A Binary frame (R89): a data frame. -/
def execFrameBinary (fin rsv1 rsv2 rsv3 : Bool) (s : State) : Host.Outcome State Fault Refusal :=
  .next (s.codecFrame (frameByte0 fin rsv1 rsv2 rsv3 0x2#4))

/-- A Close frame (R89): a control frame, whose payload is decoded (R92, R168). -/
def execFrameClose (fin rsv1 rsv2 rsv3 : Bool) (s : State) : Host.Outcome State Fault Refusal :=
  .next (s.codecFrame (frameByte0 fin rsv1 rsv2 rsv3 0x8#4))

/-- A Ping frame (R89): a control frame. -/
def execFramePing (fin rsv1 rsv2 rsv3 : Bool) (s : State) : Host.Outcome State Fault Refusal :=
  .next (s.codecFrame (frameByte0 fin rsv1 rsv2 rsv3 0x9#4))

/-- A Pong frame (R89): a control frame. -/
def execFramePong (fin rsv1 rsv2 rsv3 : Bool) (s : State) : Host.Outcome State Fault Refusal :=
  .next (s.codecFrame (frameByte0 fin rsv1 rsv2 rsv3 0xA#4))

end Sys2Proof.Machine
end

