-- ==== Sys2Proof/Machine/Mask.lean ====
section
/-! DEFINITION. The masking family: MASK (41_mask.md R142). -/

namespace Sys2Proof.Machine

/-- MASK (R142): apply the key in place to `A_LEN` bytes at `A_SRC`, byte i with key byte (i + P) mod 4. -/
def execMask (phase : Nat) (s : State) : Host.Outcome State Fault Refusal :=
  let a := s.aSrc.toNat
  let n := s.aLen.toNat
  if s.inRange a n then
    .next
      { s with
        mem := s.mem.writeBytes a (s.maskSlice s.key phase a s.slice)
        maskPhase := BitVec.ofNat 2 (phase + n) }.finish
  else .next (s.raise .outbound (boundsFault a n))

end Sys2Proof.Machine
end

