-- ==== Sys2Proof/Machine/Serialize.lean ====
section
/-! DEFINITION. The frame serializer: SER (43_frame_serialize.md R200-R205). -/

namespace Sys2Proof.Machine

/-- `CheckTxHeader(h, len)` of R202. -/
def checkTxHeader (c : Ctrl) (h : Byte) (len : Nat) : Option CmdError :=
  if reservedFrameOpcode (frameOpcode h) then some ⟨.reservedOpcode, opcodeWord (frameOpcode h), byteWord h⟩
  else if controlFrameOpcode (frameOpcode h) && !finBit h then
    some ⟨.fragmentedControlFrame, opcodeWord (frameOpcode h), byteWord h⟩
  else if controlFrameOpcode (frameOpcode h) ∧ 125 < len then
    some ⟨.controlFrameTooLarge, BitVec.ofNat 64 len, 125#64⟩
  else if unclaimedRsv c h ≠ 0#8 then some ⟨.reservedBitsSet, byteWord (unclaimedRsv c h), byteWord h⟩
  else if 2 ^ 63 ≤ len then some ⟨.frameTooLarge, BitVec.ofNat 64 len, BitVec.ofNat 64 (2 ^ 63 - 1)⟩
  else none

/-- `CheckTxRole(M)` of R203. -/
def checkTxRole (c : Ctrl) (m : Bool) : Option CmdError :=
  if !c.server && !m then some ⟨.unmaskedClientFrame, 0#64, 1#64⟩
  else if c.server && m then some ⟨.maskedServerFrame, 1#64, 1#64⟩
  else none

/-- The emitted header bytes of R201: byte 0, byte 1, the length bytes, and the key when M = 1. -/
def txHeaderBytes (h : Byte) (m : Bool) (k : BitVec 32) (len : Nat) : List Byte :=
  [h, BitVec.ofBool m ++ shortestLen7 len] ++ beBytes (extBytes (shortestLen7 len)) len ++
    (if m then keyBytes k else [])

/-- The header length of R200 and R201: `2 + ext + 4*M`. -/
def txHeaderLen (m : Bool) (len : Nat) : Nat := headerLen (shortestLen7 len) m

/-- SER (R200): serialize the frame of `TX_HDR` with the `A_LEN` payload bytes at `A_SRC` to `A_DST`. -/
def execSer (m : Bool) (s : State) : Host.Outcome State Fault Refusal :=
  let src := s.aSrc.toNat
  let len := s.aLen.toNat
  let dst := s.aDst.toNat
  match (checkTxHeader s.ctrl s.txHdr len).or (checkTxRole s.ctrl m) with
  | some e => .next (s.raise .outbound e)
  | none =>
    if !s.inRange src len then .next (s.raise .outbound (boundsFault src len))
    else if !s.inRange dst (txHeaderLen m len + len) then
      .next (s.raise .outbound (boundsFault dst (txHeaderLen m len + len)))
    else
      .next
        { s with
          mem := s.mem.writeBytes dst (txHeaderBytes s.txHdr m s.key len ++ s.maskPayload m s.key src s.slice)
          txOutLen := BitVec.ofNat 64 (txHeaderLen m len + len) }.finish

end Sys2Proof.Machine
end

