-- ==== Sys2Proof/Machine/Dispatch.lean ====
section
/-! DEFINITION. The meaning of every instruction, one arm each. -/

namespace Sys2Proof.Machine

def exec (i : Instr) (s : State) : Host.Outcome State Fault Refusal :=
  match i with
  | .mask phase => Sys2Proof.Machine.execMask phase s
  | .parse z => Sys2Proof.Machine.execParse z s
  | .ser m => Sys2Proof.Machine.execSer m s
  | .u8rst => Sys2Proof.Machine.execU8rst s
  | .u8feed => Sys2Proof.Machine.execU8feed s
  | .u8fin => Sys2Proof.Machine.execU8fin s
  | .frameContinuation fin rsv1 rsv2 rsv3 => Sys2Proof.Machine.execFrameContinuation fin rsv1 rsv2 rsv3 s
  | .frameText fin rsv1 rsv2 rsv3 => Sys2Proof.Machine.execFrameText fin rsv1 rsv2 rsv3 s
  | .frameBinary fin rsv1 rsv2 rsv3 => Sys2Proof.Machine.execFrameBinary fin rsv1 rsv2 rsv3 s
  | .frameClose fin rsv1 rsv2 rsv3 => Sys2Proof.Machine.execFrameClose fin rsv1 rsv2 rsv3 s
  | .framePing fin rsv1 rsv2 rsv3 => Sys2Proof.Machine.execFramePing fin rsv1 rsv2 rsv3 s
  | .framePong fin rsv1 rsv2 rsv3 => Sys2Proof.Machine.execFramePong fin rsv1 rsv2 rsv3 s

end Sys2Proof.Machine
end

