-- ==== Sys2Proof/Machine/Ranges.lean ====
section
/-! DEFINITION. The memory ranges each command reads and writes (20_memory.md R64). The host must keep away from them while
the command runs (70_reset_and_hazards.md R310), and a reset of a running command leaves its write range any value (R302). -/

namespace Sys2Proof.Machine

/-- A range of memory: its first address and its length in bytes. -/
structure Range where
  start : Nat
  len : Nat
deriving DecidableEq, Repr

/-- The addresses of a range. -/
def Range.covers (r : Range) (a : Nat) : Bool := decide (r.start ≤ a) && decide (a < r.start + r.len)

/-- The slice [A_SRC, A_SRC + A_LEN). -/
def State.sliceRange (s : State) : Range := ⟨s.aSrc.toNat, s.aLen.toNat⟩

/-- The bytes of the slice that exist: those below `MEM_BYTES`. When the slice is in range this is all of it. -/
def State.presentSlice (s : State) : List Byte := s.slice.take (s.cfg.memBytes - s.aSrc.toNat)

/-- What a PARSE with flag Z of these buffered bytes writes by R64: nothing before the length of the frame can be read. The
table speaks of the frame's header as if it were there; that header bytes past `MEM_BYTES`, which do not exist, leave the range
empty, and that a header that is there gives it even for a PARSE that will fail (its slice out of range, a check, bytes
missing), is the model's choice (log 8). -/
def State.parseWrites (s : State) (z : Bool) : List Byte → List Range
  | b0 :: b1 :: rest =>
    let _ := b0
    if rest.length < extBytes (len7 b1) then []
    else if wireLength (len7 b1) rest = 0 then []
    else if z then
      if maskBit b1 then
        [⟨s.aSrc.toNat + headerLen (len7 b1) (maskBit b1), wireLength (len7 b1) rest⟩]
      else []
    else [⟨s.aDst.toNat, wireLength (len7 b1) rest⟩]
  | _ => []

/-- The column "reads" of R64. -/
def State.readRanges (s : State) : Instr → List Range
  | .mask _ => [s.sliceRange]
  | .parse _ => [s.sliceRange]
  | .ser _ => [s.sliceRange]
  | .u8rst => []
  | .u8feed => [s.sliceRange]
  | .u8fin => []
  | .frameContinuation _ _ _ _ => [s.sliceRange]
  | .frameText _ _ _ _ => [s.sliceRange]
  | .frameBinary _ _ _ _ => [s.sliceRange]
  | .frameClose _ _ _ _ => [s.sliceRange]
  | .framePing _ _ _ _ => [s.sliceRange]
  | .framePong _ _ _ _ => [s.sliceRange]

/-- The column "writes" of R64. -/
def State.writeRanges (s : State) : Instr → List Range
  | .mask _ => [s.sliceRange]
  | .parse z => s.parseWrites z s.presentSlice
  | .ser m => [⟨s.aDst.toNat, txHeaderLen m s.aLen.toNat + s.aLen.toNat⟩]
  | .u8rst => []
  | .u8feed => []
  | .u8fin => []
  | .frameContinuation f a b c => s.parseWrites s.pendingZ (withByte0 (frameByte0 f a b c 0x0#4) s.presentSlice)
  | .frameText f a b c => s.parseWrites s.pendingZ (withByte0 (frameByte0 f a b c 0x1#4) s.presentSlice)
  | .frameBinary f a b c => s.parseWrites s.pendingZ (withByte0 (frameByte0 f a b c 0x2#4) s.presentSlice)
  | .frameClose f a b c => s.parseWrites s.pendingZ (withByte0 (frameByte0 f a b c 0x8#4) s.presentSlice)
  | .framePing f a b c => s.parseWrites s.pendingZ (withByte0 (frameByte0 f a b c 0x9#4) s.presentSlice)
  | .framePong f a b c => s.parseWrites s.pendingZ (withByte0 (frameByte0 f a b c 0xA#4) s.presentSlice)

/-- The read and write ranges of the command in `CMD` word; an illegal word accesses no memory (R264). -/
def State.runningRanges (s : State) : List Range :=
  match decodeCommand s.cmd with
  | .ok i => s.readRanges i ++ s.writeRanges i
  | .error _ => []

/-- The write ranges of the command in `CMD`. -/
def State.runningWrites (s : State) : List Range :=
  match decodeCommand s.cmd with
  | .ok i => s.writeRanges i
  | .error _ => []

end Sys2Proof.Machine
end

