-- ==== Sys2Proof/Machine/Registers.lean ====
section
/-! DEFINITION. The register map (10_state.md, section 1) and the host's register reads and writes (40_command_issue.md
R120, R121). -/

namespace Sys2Proof.Machine

/-- The registers of the map. -/
inductive Reg where
  | id
  | cap
  | ctrl
  | dispatch
  | maxFrame
  | cmd
  | status
  | errInfo0
  | errInfo1
  | aSrc
  | aDst
  | aLen
  | key
  | txHdr
  | txOutLen
  | maskPhase
  | rxHdr
  | rxLen
  | rxKey
  | rxPayload
  | rxConsumed
  | rxNeed
  | rxClose
  | u8State
  | u8Count
deriving DecidableEq, Repr

/-- A register's byte offset from `REG_BASE`. -/
def Reg.offset : Reg → Nat
  | .id => 0x000
  | .cap => 0x008
  | .ctrl => 0x010
  | .dispatch => 0x018
  | .maxFrame => 0x020
  | .cmd => 0x028
  | .status => 0x030
  | .errInfo0 => 0x038
  | .errInfo1 => 0x040
  | .aSrc => 0x048
  | .aDst => 0x050
  | .aLen => 0x058
  | .key => 0x060
  | .txHdr => 0x068
  | .txOutLen => 0x070
  | .maskPhase => 0x078
  | .rxHdr => 0x080
  | .rxLen => 0x088
  | .rxKey => 0x090
  | .rxPayload => 0x098
  | .rxConsumed => 0x0A0
  | .rxNeed => 0x0A8
  | .rxClose => 0x0B0
  | .u8State => 0x0B8
  | .u8Count => 0x0C0

/-- Every register of the map, in the order of the offsets. -/
def Reg.all : List Reg :=
  [.id, .cap, .ctrl, .dispatch, .maxFrame, .cmd, .status, .errInfo0, .errInfo1, .aSrc, .aDst, .aLen, .key, .txHdr,
    .txOutLen, .maskPhase, .rxHdr, .rxLen, .rxKey, .rxPayload, .rxConsumed, .rxNeed, .rxClose, .u8State, .u8Count]

/-- The register at an offset; none at a reserved one (R43). -/
def regAt (off : Nat) : Option Reg := Reg.all.find? (fun r => r.offset == off)

/-- The result registers whose reads return any value while `BUSY` = 1 (R120); of `STATUS`, bits [63:1] do. -/
def Reg.isResult : Reg → Bool
  | .id => false
  | .cap => false
  | .ctrl => false
  | .dispatch => false
  | .maxFrame => false
  | .cmd => false
  | .status => true
  | .errInfo0 => true
  | .errInfo1 => true
  | .aSrc => false
  | .aDst => false
  | .aLen => false
  | .key => false
  | .txHdr => false
  | .txOutLen => true
  | .maskPhase => true
  | .rxHdr => true
  | .rxLen => true
  | .rxKey => true
  | .rxPayload => true
  | .rxConsumed => true
  | .rxNeed => true
  | .rxClose => true
  | .u8State => true
  | .u8Count => true

/-- A register's value, its reserved fields 0 (R21-R42, R45). -/
def State.regValue (s : State) : Reg → Word
  | .id => Config.idValue
  | .cap => capWord s.cfg
  | .ctrl => s.ctrl.toWord
  | .dispatch => s.sel.setWidth 64
  | .maxFrame => s.maxFrame
  | .cmd => s.cmd
  | .status => s.status.toWord
  | .errInfo0 => s.errInfo0
  | .errInfo1 => s.errInfo1
  | .aSrc => s.aSrc
  | .aDst => s.aDst
  | .aLen => s.aLen
  | .key => s.key.setWidth 64
  | .txHdr => s.txHdr.setWidth 64
  | .txOutLen => s.txOutLen
  | .maskPhase => s.maskPhase.setWidth 64
  | .rxHdr => s.rxHdr.toWord
  | .rxLen => s.rxLen
  | .rxKey => s.rxKey.setWidth 64
  | .rxPayload => s.rxPayload
  | .rxConsumed => s.rxConsumed
  | .rxNeed => s.rxNeed
  | .rxClose => s.rxClose.toWord
  | .u8State => s.u8State.code.setWidth 64
  | .u8Count => s.u8Count

/-- What a result register answers while `BUSY` = 1: any value, but bit 0 of `STATUS` is 1 (R120, log 6). -/
def State.busyAnswer (s : State) (r : Reg) : Word :=
  if r = .status then (Config.freeWord s.draws).extractLsb' 1 63 ++ 1#1 else Config.freeWord s.draws

/-- `RegRead(off)` of R120, at an offset of the register space. -/
def State.regRead (s : State) (off : Nat) : Word :=
  match regAt off with
  | none => 0#64
  | some r => if s.status.busy && r.isResult then s.busyAnswer r else s.regValue r

/-- `issue(v)` of R121. -/
def State.issue (s : State) (v : Word) : State := { s with cmd := v, status := { s.status with busy := true } }

/-- A write of a register while `BUSY` = 0 (R120, with R24 and R25): read-only registers ignore it (R45). -/
def State.writeReg (s : State) (r : Reg) (v : Word) : State :=
  match r with
  | .ctrl => { s with ctrl := Ctrl.ofWord v }
  | .dispatch => if s.cfg.hasPath (v.extractLsb' 0 2) then { s with sel := v.extractLsb' 0 2 } else s
  | .maxFrame => if v = 0#64 then s else { s with maxFrame := v }
  | .cmd => s.issue v
  | .aSrc => { s with aSrc := v }
  | .aDst => { s with aDst := v }
  | .aLen => { s with aLen := v }
  | .key => { s with key := v.extractLsb' 0 32 }
  | .txHdr => { s with txHdr := v.extractLsb' 0 8 }
  | .id => s
  | .cap => s
  | .status => s
  | .errInfo0 => s
  | .errInfo1 => s
  | .txOutLen => s
  | .maskPhase => s
  | .rxHdr => s
  | .rxLen => s
  | .rxKey => s
  | .rxPayload => s
  | .rxConsumed => s
  | .rxNeed => s
  | .rxClose => s
  | .u8State => s
  | .u8Count => s

/-- `RegWrite(off, v)` of R120, at an offset of the register space. -/
def State.regWrite (s : State) (off : Nat) (v : Word) : State :=
  if s.status.busy then s
  else
    match regAt off with
    | none => s
    | some r => s.writeReg r v

end Sys2Proof.Machine
end

