-- ==== Sys2Proof/Machine/HostPort.lean ====
section
/-! DEFINITION. The host's moves: register and memory accesses (40_command_issue.md R120, 20_memory.md R66), polling
(30_encoding.md R94), reset and power-on (70_reset_and_hazards.md R300-R302); who moves next; and the pseudo-instructions of
R95. -/

namespace Sys2Proof.Machine

/-! ## Reset -/

/-- Free bytes at `n` addresses from `a` on (items I6, I7). -/
def Memory.fillFree (draw a : Nat) : Nat → Memory → Memory
  | 0, m => m
  | n + 1, m => Memory.fillFree draw (a + 1) n (m.write a (Config.freeByte draw a))

/-- Free bytes at the addresses of a range that lie below `limit`. -/
def Memory.fillRange (draw limit : Nat) (m : Memory) (r : Range) : Memory :=
  Memory.fillFree draw r.start (min r.len (limit - r.start)) m

/-- The memory after a reset (R301, R302): as it was, but for the write range of a command abandoned while it ran, whose
bytes are then any value (logs 8, 9). -/
def State.memAfterReset (s : State) : Memory :=
  if s.status.busy then s.runningWrites.foldl (Memory.fillRange s.draws s.cfg.memBytes) s.mem else s.mem

/-- The block's reset (R300): every register at its value of R303, nothing pending. -/
def State.assertReset (s : State) : State :=
  { State.powerOn s.cfg s.memAfterReset with port := s.port, turns := s.turns, draws := s.draws + 1 }

/-- Power-on (R300, R301): a reset that leaves every byte of the window any value (log 3). -/
def State.assertPowerOn (s : State) : State :=
  { State.powerOn s.cfg (Memory.fillFree s.draws 0 s.cfg.memBytes []) with
    port := s.port, turns := s.turns, draws := s.draws + 1 }

/-! ## The host's moves -/

/-- The block answers the host with a value. -/
def State.answer (s : State) (v : Word) : State :=
  { s with port := { s.port with reads := v :: s.port.reads }, draws := s.draws + 1 }

/-- A register access the block defines: 8 bytes wide at a multiple of 8 (R44). -/
def registerForm (off width : Nat) : Bool := decide (width = 8) && decide (off % 8 = 0)

/-- A host memory access to this byte breaks the duty of R310. -/
def State.breaksDuty (s : State) (a : Nat) : Bool := s.status.busy && s.runningRanges.any (fun r => r.covers a)

/-- One move of the host, already taken off the queue. -/
def State.hostMove (s : State) (m : HostMove) : Host.Outcome State Fault Refusal :=
  match m with
  | .regRead off width =>
    if !registerForm off width then .refused .registerAccessForm
    else if 0x100 ≤ off then .refused .outsideRegisterSpace
    else .next (s.answer (s.regRead off))
  | .regWrite off width v =>
    if !registerForm off width then .refused .registerAccessForm
    else if 0x100 ≤ off then .refused .outsideRegisterSpace
    else .next (s.regWrite off v)
  | .poll =>
    if s.status.busy then
      .next { s.answer (s.regRead 0x030) with
        port := { queue := .poll :: s.port.queue, reads := s.regRead 0x030 :: s.port.reads } }
    else .next (s.answer (s.regRead 0x030))
  | .memRead a =>
    if s.cfg.memBytes ≤ a then .fault .hostOutsideWindow
    else if s.breaksDuty a then .fault .hostTouchesRunningRange
    else .next (s.answer ((s.mem.read a).setWidth 64))
  | .memWrite a b =>
    if s.cfg.memBytes ≤ a then .fault .hostOutsideWindow
    else if s.breaksDuty a then .fault .hostTouchesRunningRange
    else .next { s with mem := s.mem.write a b }
  | .reset => .next s.assertReset
  | .powerOn => .next s.assertPowerOn

/-- The host's next move: the first of its queue. -/
def State.hostStep (s : State) : Host.Outcome State Fault Refusal :=
  match s.port.queue with
  | [] => .next s
  | m :: rest => { s with port := { s.port with queue := rest } }.hostMove m

/-! ## Who moves next -/

/-- Both agents can move: a command is pending and a host access is waiting. -/
def State.contended (s : State) : Bool := s.status.busy && !s.port.queue.isEmpty

/-- The agent that moves next, if one can: while both can, the first of `turns` says which, and the engine moves once the
list is used up (R126, R320, log 5). -/
def State.mover (s : State) : Option Agent :=
  if s.contended then some (s.turns.headD .engine)
  else if s.status.busy then some .engine
  else if s.port.queue.isEmpty then none
  else some .host

/-- The state once a choice between the agents is used. -/
def State.afterTurn (s : State) : State := if s.contended then { s with turns := s.turns.tail } else s

/-- An illegal command word's execution (R264): `raise IllegalCommand(w, 0)`. -/
def State.illegalCommand (s : State) : State := s.raise .outbound ⟨.illegalCommand, s.cmd, 0#64⟩

/-! ## Fetching: the model's way to place one instruction as the engine's next -/

/-- `CMD` holds the word and the command is pending, as after the host's accepted `CMD` write (R121), and the engine moves
next (log 13). -/
def State.placeCommand (s : State) (w : Word) : State := { s.issue w with turns := [] }

/-- A PARSE with Z = 1 is pending on two buffered bytes at address 0: the given byte 0, and a byte 1 of 0 (log 13). -/
def State.placeFrame (s : State) (b0 : Byte) : State :=
  { s with aSrc := 0#64, aLen := 2#64, mem := (s.mem.write 0 b0).write 1 0#8 }.placeCommand 0x110#64

/-- Place an instruction of the opcode table, by its encoding. -/
def State.place (s : State) : Encoded → State
  | .command w => s.placeCommand w
  | .frameByte0 b => s.placeFrame b

/-! ## Host programs (R94, R95) -/

/-- `wr REG, v`. -/
def wr (r : Reg) (v : Word) : HostMove := .regWrite r.offset 8 v

/-- `rd REG`. -/
def rd (r : Reg) : HostMove := .regRead r.offset 8

/-- The command word of an instruction, for `cmd`; a frame opcode is no command. -/
def commandOf (i : Instr) : Word :=
  match encode i with
  | .command w => w
  | .frameByte0 b => b.setWidth 64

/-- `cmd MNEMONIC`. -/
def cmd (i : Instr) : HostMove := wr .cmd (commandOf i)

/-- `mem a: b0 b1 ...`. -/
def memAt (a : Nat) : List Byte → List HostMove
  | [] => []
  | b :: bs => .memWrite a b :: memAt (a + 1) bs

/-- `mask a, n, k, p` (R95). -/
def pseudoMask (a n k : Word) (p : Nat) : List HostMove :=
  [wr .aSrc a, wr .aLen n, wr .key k, cmd (.mask p), .poll]

/-- `parse a, avail, d[, z]` (R95). -/
def pseudoParse (a avail d : Word) (z : Bool) : List HostMove :=
  [wr .aSrc a, wr .aLen avail, wr .aDst d, cmd (.parse z), .poll]

/-- `ser h, s, n, d[, k]` (R95). -/
def pseudoSer (h src n d : Word) (k : Option Word) : List HostMove :=
  [wr .txHdr h, wr .aSrc src, wr .aLen n, wr .aDst d] ++
    (match k with
     | some k => [wr .key k, cmd (.ser true)]
     | none => [cmd (.ser false)]) ++ [.poll]

/-- `u8rst` (R95). -/
def pseudoU8rst : List HostMove := [cmd .u8rst, .poll]

/-- `u8feed a, n` (R95). -/
def pseudoU8feed (a n : Word) : List HostMove := [wr .aSrc a, wr .aLen n, cmd .u8feed, .poll]

/-- `u8fin` (R95). -/
def pseudoU8fin : List HostMove := [cmd .u8fin, .poll]

/-! ## The host's address map (R6, R69) -/

/-- What a host address names, by `MEM_BASE` and `REG_BASE` (log 21). -/
inductive BusTarget where
  | window (a : Nat)
  | register (off : Nat)
  | elsewhere
deriving DecidableEq, Repr

/-- The translation of a host address, where the platform places the window and the register space apart. -/
def busTarget (p : Params) (addr : Nat) : BusTarget :=
  if p.memBase ≤ addr ∧ addr < p.memBase + p.memBytes then .window (addr - p.memBase)
  else if p.regBase ≤ addr ∧ addr < p.regBase + 0x100 then .register (addr - p.regBase)
  else .elsewhere

end Sys2Proof.Machine
end

