-- ==== Sys2Proof/Machine/Step.lean ====
section
/-! DEFINITION. One step of the block and its host: whole commands and whole host moves interleave (20_memory.md R70). -/

namespace Sys2Proof.Machine

/-- One step. The engine runs the decoded command whole (R122), an illegal word as R264 says; the host makes one move; with
nothing pending and no move waiting the block is idle and keeps its state (R275). -/
def step (s : State) : Host.Outcome State Fault Refusal :=
  match s.mover with
  | some .engine =>
    match decodeCommand s.cmd with
    | .ok i => exec i s.afterTurn
    | .error _ => .next s.afterTurn.illegalCommand
  | some .host => s.afterTurn.hostStep
  | none => .next s

/-- `s` with an opcode-table word placed as the engine's next instruction (log 13); a number that is no row's word leaves
`s` as it is. -/
def State.withFetchWord (s : State) (nbits w : Nat) : State :=
  match encodedOfBits nbits w with
  | none => s
  | some e => s.place e

end Sys2Proof.Machine
end

