-- ==== Sys2Proof/Safety.lean ====
section
/-! DEFINITION. The terms the statements use: the ends of a command as R123 gives them, the frame that stands at the head of
the buffered bytes, when the spec accepts it, valid UTF-8 as R222 gives it, and the invariant of the machine. -/

namespace Sys2Proof.Safety

open Sys2Proof.Machine

/-! ## How a command ends (40_command_issue.md R123) -/

/-- `end(OK)`. -/
def endOk (s : State) : State :=
  { s with
    status := { busy := false, result := .ok, err := 0#8, closeHint := 0#16, lastOp := s.cmd.extractLsb' 0 8 }
    errInfo0 := 0#64, errInfo1 := 0#64, vkey := none }

/-- `end(NEED_MORE(n))`, with `RX_NEED <- n` (R170). -/
def endNeedMore (s : State) (n : Nat) : State :=
  { s with
    status := { busy := false, result := .needMore, err := 0#8, closeHint := 0#16, lastOp := s.cmd.extractLsb' 0 8 }
    errInfo0 := 0#64, errInfo1 := 0#64, vkey := none, rxNeed := BitVec.ofNat 64 n }

/-- `end(ERROR(e, i0, i1))` with the code and the hint written out. -/
def endError (s : State) (code : Byte) (hint : BitVec 16) (i0 i1 : Word) : State :=
  { s with
    status := { busy := false, result := .error, err := code, closeHint := hint, lastOp := s.cmd.extractLsb' 0 8 }
    errInfo0 := i0, errInfo1 := i1, vkey := none }

/-- A PARSE that ends in an error also writes `RX_NEED <- 0` (R170, R262). -/
def endParseError (s : State) (code : Byte) (hint : BitVec 16) (i0 i1 : Word) : State :=
  endError { s with rxNeed := 0#64 } code hint i0 i1

/-- The close hint of a protocol error a PARSE raises on a frame of opcode `op`: 1002, but 0 on a Close frame (R263). -/
def protocolHint (op : BitVec 4) : BitVec 16 := if op = 8#4 then 0#16 else 1002#16

/-! ## The result registers as the host reads them (10_state.md) -/

/-- A one-bit field. -/
def bit (b : Bool) : Word := if b then 1#64 else 0#64

/-- `STATUS` by the bit positions of R27. -/
def statusBits (t : Status) : Word :=
  bit t.busy ||| (if t.result = .ok then 0#64 else if t.result = .needMore then 1#64 else 2#64) <<< 1 |||
    t.err.setWidth 64 <<< 8 ||| t.closeHint.setWidth 64 <<< 16 ||| t.lastOp.setWidth 64 <<< 32

/-- `RX_HDR` by the bit positions of R34. -/
def rxHdrBits (h : RxHdr) : Word :=
  h.b0.setWidth 64 ||| bit h.masked <<< 8 ||| h.len7.setWidth 64 <<< 9 ||| h.hdrLen.setWidth 64 <<< 16

/-- `RX_CLOSE` by the bit positions of R40. -/
def rxCloseBits (c : RxClose) : Word :=
  c.code.setWidth 64 ||| bit c.present <<< 16 ||| bit c.valid <<< 17 ||| c.reasonLen.setWidth 64 <<< 24

/-- `CTRL` by the bit positions of R23. -/
def ctrlBits (c : Ctrl) : Word :=
  bit c.server ||| bit c.acceptUnmasked <<< 1 ||| bit c.strictLen <<< 2 ||| bit c.claimRsv3 <<< 4 |||
    bit c.claimRsv2 <<< 5 ||| bit c.claimRsv1 <<< 6

/-- `U8_STATE` by the codes of R220. -/
def utf8Code (t : Utf8State) : Word :=
  if t = .accept then 0#64 else if t = .t1 then 1#64 else if t = .t2 then 2#64 else if t = .t3 then 3#64
  else if t = .e0 then 4#64 else if t = .ed then 5#64 else if t = .f0 then 6#64 else if t = .f4 then 7#64 else 8#64

/-! ## The frame at the head of the buffered bytes (30_encoding.md R84-R88) -/

/-- Byte 0 of the buffered frame. -/
def byte0 (s : State) : Byte := s.mem.read s.aSrc.toNat

/-- Byte 1 of the buffered frame. -/
def byte1 (s : State) : Byte := s.mem.read (s.aSrc.toNat + 1)

/-- `EXT` (R86). -/
def ext (s : State) : Nat :=
  if (byte1 s).extractLsb' 0 7 = 126#7 then 2 else if (byte1 s).extractLsb' 0 7 = 127#7 then 8 else 0

/-- The MASK bit (R85). -/
def masked (s : State) : Bool := (byte1 s).getLsbD 7

/-- `HDR_LEN` (R88). -/
def hdrLen (s : State) : Nat := 2 + ext s + (if masked s then 4 else 0)

/-- The payload length the header gives (R86): LEN7, or the big-endian number of the 2 or 8 bytes after byte 1. -/
def frameLen (s : State) : Nat :=
  if ext s = 0 then ((byte1 s).extractLsb' 0 7).toNat
  else ((List.range (ext s)).map fun j => (s.mem.read (s.aSrc.toNat + 2 + j)).toNat * 256 ^ (ext s - 1 - j)).sum

/-- The mask key in the packing of `KEY`, 0 when MASK = 0 (R36, R87). -/
def frameKey (s : State) : BitVec 32 :=
  if masked s then
    s.mem.read (s.aSrc.toNat + 2 + ext s) ++ s.mem.read (s.aSrc.toNat + 3 + ext s) ++
      s.mem.read (s.aSrc.toNat + 4 + ext s) ++ s.mem.read (s.aSrc.toNat + 5 + ext s)
  else 0#32

/-- The payload bytes, unmasked with phase 0 (R166). -/
def plainPayload (s : State) : List Byte :=
  maskRef (s.mem.readBytes (s.aSrc.toNat + hdrLen s) (frameLen s)) (frameKey s) 0

/-- A control frame's opcode (R89). -/
def isControl (op : BitVec 4) : Prop := op = 8#4 ∨ op = 9#4 ∨ op = 10#4

/-- A defined frame opcode (R89). -/
def isKnown (op : BitVec 4) : Prop := op = 0#4 ∨ op = 1#4 ∨ op = 2#4 ∨ isControl op

/-- Byte 0 passes the checks of R162. -/
def byte0Accepted (c : Ctrl) (b0 : Byte) : Prop :=
  isKnown (b0.extractLsb' 0 4) ∧ (isControl (b0.extractLsb' 0 4) → b0.getLsbD 7 = true) ∧
    b0 &&& 0x70#8 &&& ~~~ (c.toWord.extractLsb' 0 8 &&& 0x70#8) = 0#8

/-- The MASK bit passes the check of R164. -/
def roleAccepted (c : Ctrl) (mk : Bool) : Prop :=
  (c.server = true → mk = true ∨ c.acceptUnmasked = true) ∧ (c.server = false → mk = false)

/-- The length passes the checks inside `DecodeLength` of R163. -/
def lengthFormAccepted (s : State) : Prop :=
  (ext s = 8 → frameLen s < 2 ^ 63) ∧
    (s.ctrl.strictLen = true → (ext s = 2 → 126 ≤ frameLen s) ∧ (ext s = 8 → 65536 ≤ frameLen s))

/-- The length passes `CheckLength` of R163. -/
def lengthAccepted (s : State) (op : BitVec 4) : Prop :=
  (isControl op → frameLen s ≤ 125) ∧ frameLen s ≤ s.maxFrame.toNat

/-- The whole frame with byte 0 `b0` is buffered and its header passes every check of PARSE. -/
def frameAccepted (s : State) (b0 : Byte) : Prop :=
  s.inRange s.aSrc.toNat s.aLen.toNat = true ∧ byte0Accepted s.ctrl b0 ∧ roleAccepted s.ctrl (masked s) ∧
    lengthFormAccepted s ∧ lengthAccepted s (b0.extractLsb' 0 4) ∧ hdrLen s + frameLen s ≤ s.aLen.toNat

/-- The payload has a place: with Z = 0 the destination is in range (R167). -/
def placeAccepted (s : State) (z : Bool) : Prop := z = false → s.inRange s.aDst.toNat (frameLen s) = true

/-- The state after a PARSE with flag Z that ends OK on the frame with byte 0 `b0` (R167, R171), `close` being what it
writes to `RX_CLOSE`. -/
def parsedState (s : State) (z : Bool) (b0 : Byte) (close : RxClose) : State :=
  endOk
    { s with
      mem :=
        if z then
          if masked s then s.mem.writeBytes (s.aSrc.toNat + hdrLen s) (plainPayload s) else s.mem
        else s.mem.writeBytes s.aDst.toNat (plainPayload s)
      rxHdr :=
        { b0 := b0, masked := masked s, len7 := (byte1 s).extractLsb' 0 7, hdrLen := BitVec.ofNat 4 (hdrLen s) }
      rxLen := BitVec.ofNat 64 (frameLen s)
      rxKey := frameKey s
      rxPayload := if z then BitVec.ofNat 64 (s.aSrc.toNat + hdrLen s) else s.aDst
      rxConsumed := BitVec.ofNat 64 (hdrLen s + frameLen s)
      rxNeed := 0#64
      rxClose := close }

/-- `RX_CLOSE` when the frame is not a Close frame (R40, R171). -/
def noClose : RxClose := { code := 0#16, present := false, valid := false, reasonLen := 0#7 }

/-- The sendable close codes of R169. -/
def sendable (code : Nat) : Prop :=
  (code = 1000 ∨ code = 1001 ∨ code = 1002 ∨ code = 1003) ∨ (1007 ≤ code ∧ code ≤ 1011) ∨ (3000 ≤ code ∧ code ≤ 4999)

/-! ## The frame SER emits (43_frame_serialize.md R201, R202) -/

/-- The header passes the checks of R202. -/
def txHeaderAccepted (c : Ctrl) (h : Byte) (len : Nat) : Prop :=
  byte0Accepted c h ∧ (isControl (h.extractLsb' 0 4) → len ≤ 125) ∧ len < 2 ^ 63

/-- The outbound MASK bit passes the check of R203. -/
def txRoleAccepted (c : Ctrl) (m : Bool) : Prop := m = !c.server

/-- The header length of R201 for payload length `len`. -/
def txLen (m : Bool) (len : Nat) : Nat :=
  (if len ≤ 125 then 2 else if len ≤ 65535 then 4 else 10) + (if m then 4 else 0)

/-- Byte 0, byte 1 and the length bytes of R201, written out for the three length forms. -/
def txLengthForm (h : Byte) (m : Bool) (len : Nat) : List Byte :=
  if len ≤ 125 then [h, BitVec.ofBool m ++ BitVec.ofNat 7 len]
  else if len ≤ 65535 then [h, BitVec.ofBool m ++ 126#7, BitVec.ofNat 8 (len / 2 ^ 8), BitVec.ofNat 8 len]
  else
    [h, BitVec.ofBool m ++ 127#7, BitVec.ofNat 8 (len / 2 ^ 56), BitVec.ofNat 8 (len / 2 ^ 48),
      BitVec.ofNat 8 (len / 2 ^ 40), BitVec.ofNat 8 (len / 2 ^ 32), BitVec.ofNat 8 (len / 2 ^ 24),
      BitVec.ofNat 8 (len / 2 ^ 16), BitVec.ofNat 8 (len / 2 ^ 8), BitVec.ofNat 8 len]

/-- The four key bytes of `KEY` in wire order (R30). -/
def wireKey (k : BitVec 32) : List Byte :=
  [k.extractLsb' 24 8, k.extractLsb' 16 8, k.extractLsb' 8 8, k.extractLsb' 0 8]

/-- The whole frame SER emits (R200, R201, R204). -/
def txFrame (s : State) (m : Bool) : List Byte :=
  txLengthForm s.txHdr m s.aLen.toNat ++
    (if m then wireKey s.key ++ maskRef s.slice s.key 0 else s.slice)

/-! ## The validator run over a slice -/

/-- The automaton of R221 run over a byte list. -/
def runUtf8 (t : Utf8State) (bs : List Byte) : Utf8State := bs.foldl delta t

/-! ## Valid UTF-8 (44_utf8.md R222) -/

/-- The byte lies in a range. -/
def within (b : Byte) (lo hi : Nat) : Prop := lo ≤ b.toNat ∧ b.toNat ≤ hi

/-- A well-formed sequence of R222. -/
def wellFormedSequence : List Byte → Prop
  | [a] => within a 0x00 0x7F
  | [a, b] => within a 0xC2 0xDF ∧ within b 0x80 0xBF
  | [a, b, c] =>
    within c 0x80 0xBF ∧
      ((within a 0xE0 0xE0 ∧ within b 0xA0 0xBF) ∨ (within a 0xE1 0xEC ∧ within b 0x80 0xBF) ∨
        (within a 0xED 0xED ∧ within b 0x80 0x9F) ∨ (within a 0xEE 0xEF ∧ within b 0x80 0xBF))
  | [a, b, c, d] =>
    within c 0x80 0xBF ∧ within d 0x80 0xBF ∧
      ((within a 0xF0 0xF0 ∧ within b 0x90 0xBF) ∨ (within a 0xF1 0xF3 ∧ within b 0x80 0xBF) ∨
        (within a 0xF4 0xF4 ∧ within b 0x80 0x8F))
  | _ => False

/-- Valid UTF-8: a concatenation of well-formed sequences (R222). -/
def validUtf8 (bs : List Byte) : Prop :=
  ∃ parts : List (List Byte), (∀ q ∈ parts, wellFormedSequence q) ∧ bs = parts.flatten

/-! ## The invariant -/

/-- `DISPATCH.SEL` names a path that is present (R24). -/
def pathPresent (s : State) : Bool := s.cfg.hasPath s.sel

/-- The memory is in canonical form and lists only addresses of the window (R60). -/
def memoryInWindow (s : State) : Bool := s.mem.wf && s.mem.all (fun c => decide (c.1 < s.cfg.memBytes))

/-- `MAX_FRAME` is not 0 (R25). -/
def maxFrameNonzero (s : State) : Bool := decide (s.maxFrame ≠ 0#64)

/-- The error codes of R260 that some command raises. -/
def raisedCodes : List Byte := [0x03, 0x04, 0x05, 0x06, 0x07, 0x08, 0x09, 0x0C, 0x0E, 0x40, 0x41]

/-- While the result is not ERROR the error fields read 0, and an ERROR has a code that some command raises (R27, R28,
R260). -/
def errorFieldsAgree (s : State) : Bool :=
  if s.status.result = .error then raisedCodes.contains s.status.err
  else
    decide (s.status.err = 0#8) && decide (s.status.closeHint = 0#16) && decide (s.errInfo0 = 0#64) &&
      decide (s.errInfo1 = 0#64)

/-- The receive registers describe one frame: `RX_LEN` is below 2^63, `RX_CONSUMED` is header plus payload, the header length
is one R88 gives (or 0 before any frame), and `RX_KEY` is 0 without MASK (R34-R38). -/
def receivedFrameAgrees (s : State) : Bool :=
  decide (s.rxLen.toNat < 2 ^ 63) && decide (s.rxConsumed = s.rxLen + s.rxHdr.hdrLen.setWidth 64) &&
    [0, 2, 4, 6, 8, 10, 14].contains s.rxHdr.hdrLen.toNat && (s.rxHdr.masked || decide (s.rxKey = 0#32))

/-- `RX_CLOSE.VALID` is PRESENT with a sendable code, and the reason has at most 123 bytes (R40, R169). -/
def closeAgrees (s : State) : Bool :=
  (s.rxClose.valid == (s.rxClose.present && sendableCloseCode s.rxClose.code.toNat)) &&
    decide (s.rxClose.reasonLen.toNat ≤ 123)

/-- No vector key between steps (R46). -/
def noVectorKey (s : State) : Bool := s.vkey.isNone

/-- The invariant that reset establishes and every step keeps. -/
def inv (s : State) : Bool :=
  pathPresent s && memoryInWindow s && maxFrameNonzero s && errorFieldsAgree s && receivedFrameAgrees s &&
    closeAgrees s && noVectorKey s

end Sys2Proof.Safety
end

