-- ==== Sys2Proof/Certificates/Slice0/Obligations.lean ====
section
/-! DEFINITION. The statements for the provers, from the numbered rules of spec/. -/

open Sys2Proof Sys2Proof.Machine Sys2Proof.Safety

/-! ## Encodings -/

/-- Decoding an encoded well-formed instruction gives it back: no bit of an encoding is dropped. -/
def Obligations.DecodeUndoesEncode : Prop :=
  ∀ i : Instr, i.wf = true → decode (encode i) = .ok i

/-- Each word and each byte 0 has one meaning: what decodes is the encoding of a well-formed instruction. -/
def Obligations.EncodeUndoesDecode : Prop :=
  ∀ (e : Encoded) (i : Instr), decode e = .ok i → i.wf = true ∧ encode i = e

/-- R82: each command's match, mask and flag bits, over all 64 bits of the word. -/
def Obligations.WordSelectsCommandByMatchAndMask : Prop :=
  ∀ w : Word,
    (∀ p : Nat, decodeCommand w = .ok (.mask p) ↔
      w &&& 0xFFFFFFFFFFFFFCFF#64 = 0x0000000000000001#64 ∧ p = (w.extractLsb' 8 2).toNat) ∧
    (∀ z : Bool, decodeCommand w = .ok (.parse z) ↔
      w &&& 0xFFFFFFFFFFFFFEFF#64 = 0x0000000000000010#64 ∧ z = w.getLsbD 8) ∧
    (∀ m : Bool, decodeCommand w = .ok (.ser m) ↔
      w &&& 0xFFFFFFFFFFFFFEFF#64 = 0x0000000000000011#64 ∧ m = w.getLsbD 8) ∧
    (decodeCommand w = .ok .u8rst ↔ w &&& 0xFFFFFFFFFFFFFFFF#64 = 0x0000000000000020#64) ∧
    (decodeCommand w = .ok .u8feed ↔ w &&& 0xFFFFFFFFFFFFFFFF#64 = 0x0000000000000021#64) ∧
    (decodeCommand w = .ok .u8fin ↔ w &&& 0xFFFFFFFFFFFFFFFF#64 = 0x0000000000000022#64)

/-- Words written out from the tables of R82 and R89 decode to the instructions they stand for. -/
def Obligations.WrittenOutWordsDecode : Prop :=
  decodeTableWord 64 0x0000000000000301 = some (.mask 3) ∧
    decodeTableWord 64 0x0000000000000110 = some (.parse true) ∧
    decodeTableWord 64 0x0000000000000011 = some (.ser false) ∧
    decodeTableWord 64 0x0000000000000020 = some .u8rst ∧
    decodeTableWord 64 0x0000000000000021 = some .u8feed ∧
    decodeTableWord 64 0x0000000000000022 = some .u8fin ∧
    decodeTableWord 8 0x00 = some (.frameContinuation false false false false) ∧
    decodeTableWord 8 0xC1 = some (.frameText true true false false) ∧
    decodeTableWord 8 0x88 = some (.frameClose true false false false) ∧
    decodeTableWord 8 0x83 = none ∧ decodeTableWord 64 0x0000000000000401 = none

/-- R89: the frame opcodes of byte 0, the reserved ones rejected. -/
def Obligations.FrameOpcodesDecodeByTable : Prop :=
  ∀ (fin rsv1 rsv2 rsv3 : Bool) (op : BitVec 4),
    decodeFrameByte (BitVec.ofBool fin ++ BitVec.ofBool rsv1 ++ BitVec.ofBool rsv2 ++ BitVec.ofBool rsv3 ++ op) =
      if op = 0x0#4 then .ok (.frameContinuation fin rsv1 rsv2 rsv3)
      else if op = 0x1#4 then .ok (.frameText fin rsv1 rsv2 rsv3)
      else if op = 0x2#4 then .ok (.frameBinary fin rsv1 rsv2 rsv3)
      else if op = 0x8#4 then .ok (.frameClose fin rsv1 rsv2 rsv3)
      else if op = 0x9#4 then .ok (.framePing fin rsv1 rsv2 rsv3)
      else if op = 0xA#4 then .ok (.framePong fin rsv1 rsv2 rsv3)
      else .error .reservedFrameOpcode

/-- R83 and R264: exactly the words with an illegal opcode, an unused flag bit or one of bits [63:16] set are illegal; such a
word is accepted into `CMD`, and the engine's step on it is `raise IllegalCommand(w, 0)`, which changes nothing but
`STATUS` and the error operands. With a host access waiting, that step also uses up an entry of the schedule, if it has one
(`State.afterTurn`; the model's choice, log 5). -/
def Obligations.IllegalWordCompletesWithIllegalCommand : Prop :=
  (∀ w : Word, (∀ i : Instr, decodeCommand w ≠ .ok i) ↔
    w.extractLsb' 0 8 ∉ [0x01#8, 0x10#8, 0x11#8, 0x20#8, 0x21#8, 0x22#8] ∨
    w.extractLsb' 16 48 ≠ 0#48 ∨
    (w.extractLsb' 0 8 = 0x01#8 ∧ w.extractLsb' 10 6 ≠ 0#6) ∨
    (w.extractLsb' 0 8 ∈ [0x10#8, 0x11#8] ∧ w.extractLsb' 9 7 ≠ 0#7) ∨
    (w.extractLsb' 0 8 ∈ [0x20#8, 0x21#8, 0x22#8] ∧ w.extractLsb' 8 8 ≠ 0#8)) ∧
  (∀ (s : State) (w : Word), s.status.busy = false →
    s.regWrite 0x028 w = { s with cmd := w, status := { s.status with busy := true } }) ∧
  (∀ s : State, s.mover = some .engine → (∀ i : Instr, decodeCommand s.cmd ≠ .ok i) →
    step s = .next (endError s.afterTurn 0x40#8 0#16 s.cmd 0#64))

/-! ## The step -/

/-- R122: the engine runs the decoded pending command, whole, in one step. When no host access is waiting nothing is added;
when one is, the step has used up the choice that let the engine move first (the model's schedule, log 5). -/
def Obligations.EngineStepRunsPendingCommand : Prop :=
  ∀ (s : State) (i : Instr), s.status.busy = true → decodeCommand s.cmd = .ok i →
    (s.port.queue = [] → step s = exec i s) ∧
    (s.port.queue ≠ [] → s.turns.headD .engine = .engine → step s = exec i { s with turns := s.turns.tail })

/-- With no command pending and no host access waiting the block is idle and keeps all its state (R275). With one waiting, the
step takes the head of the host's queue and makes that move: the model's form of the host (log 4), of which R275 says
nothing. -/
def Obligations.IdleBlockKeepsItsState : Prop :=
  ∀ s : State, s.status.busy = false →
    (s.port.queue = [] → step s = .next s) ∧
    (∀ (m : HostMove) (rest : List HostMove), s.port.queue = m :: rest →
      step s = { s with port := { s.port with queue := rest } }.hostMove m)

/-- The model's choice of log 12: a frame instruction is what a pending PARSE does with the buffered frame that begins with
its byte 0. -/
def Obligations.ParseRunsTheFrameItDecodes : Prop :=
  ∀ (s : State) (i : Instr), s.aLen ≠ 0#64 → decodeFrameByte (byte0 s) = .ok i →
    exec (.parse (s.cmd.getLsbD 8)) s = exec i s

/-! ## Every command -/

/-- R123 and the column "raised by" of R260: every instruction completes; `BUSY` falls, `LAST_OP` is bits [7:0] of `CMD`, OK and
NEED_MORE clear the error fields, an ERROR has a code that this command raises, with a close hint that R263 gives that error,
and for MASK, U8FIN and the BoundsFault of U8FEED with its operands; only PARSE can end NEED_MORE. That a frame instruction
completes as a PARSE does is the model's choice (log 12). -/
def Obligations.EveryCommandCompletes : Prop :=
  ∀ (i : Instr) (s : State), ∃ t : State, exec i s = .next t ∧
    t.status.busy = false ∧ t.status.lastOp = s.cmd.extractLsb' 0 8 ∧ t.vkey = none ∧
    (t.status.result ≠ .error →
      t.status.err = 0#8 ∧ t.status.closeHint = 0#16 ∧ t.errInfo0 = 0#64 ∧ t.errInfo1 = 0#64) ∧
    (t.status.result = .error →
      (∃ (src : ErrorSource) (k : ErrorKind), t.status.err = k.code ∧ t.status.closeHint = closeHint src k) ∧
      i ≠ .u8rst ∧
      ((∃ p, i = .mask p) → t.status.err = 0x41#8 ∧ t.errInfo0 = s.aSrc ∧ t.errInfo1 = s.aLen) ∧
      ((∃ m, i = .ser m) → t.status.err ∈ [0x03#8, 0x04#8, 0x05#8, 0x06#8, 0x07#8, 0x08#8, 0x09#8, 0x41#8]) ∧
      ((∃ z, i = .parse z) ∨ (∃ b, encode i = .frameByte0 b) → t.status.err ∈
        [0x03#8, 0x04#8, 0x05#8, 0x06#8, 0x07#8, 0x08#8, 0x09#8, 0x0C#8, 0x0E#8, 0x41#8]) ∧
      (i = .u8feed →
        t.status.err = 0x0C#8 ∨ (t.status.err = 0x41#8 ∧ t.errInfo0 = s.aSrc ∧ t.errInfo1 = s.aLen)) ∧
      (i = .u8fin →
        t.status.err = 0x0C#8 ∧ t.errInfo0 = s.u8Count ∧ t.errInfo1 = s.u8State.code.setWidth 64)) ∧
    (t.status.result = .needMore → (∃ z, i = .parse z) ∨ ∃ b, encode i = .frameByte0 b)

/-- R125: the registers each command writes, besides `STATUS` and the error operands, on each outcome; U8RST never errs.
That the frame instructions share the row of PARSE, which the table of R125 does not say, is the model's choice (log 12). -/
def Obligations.CommandsWriteOnlyTheirRegisters : Prop :=
  (∀ (i : Instr) (s t : State), exec i s = .next t →
    (t.cfg = s.cfg ∧ t.ctrl = s.ctrl ∧ t.sel = s.sel ∧ t.maxFrame = s.maxFrame ∧ t.cmd = s.cmd ∧ t.aSrc = s.aSrc ∧
      t.aDst = s.aDst ∧ t.aLen = s.aLen ∧ t.key = s.key ∧ t.txHdr = s.txHdr ∧ t.port = s.port ∧ t.turns = s.turns ∧
      t.draws = s.draws) ∧
    ((∀ p, i ≠ .mask p) ∨ t.status.result ≠ .ok → t.maskPhase = s.maskPhase) ∧
    ((∀ m, i ≠ .ser m) ∨ t.status.result ≠ .ok → t.txOutLen = s.txOutLen) ∧
    (((∀ z, i ≠ .parse z) ∧ ∀ b, encode i ≠ .frameByte0 b) ∨ t.status.result ≠ .ok →
      t.rxHdr = s.rxHdr ∧ t.rxLen = s.rxLen ∧ t.rxKey = s.rxKey ∧ t.rxPayload = s.rxPayload ∧
      t.rxConsumed = s.rxConsumed ∧ t.rxClose = s.rxClose) ∧
    ((∀ z, i ≠ .parse z) ∧ (∀ b, encode i ≠ .frameByte0 b) → t.rxNeed = s.rxNeed) ∧
    ((∃ z, i = .parse z) ∨ (∃ b, encode i = .frameByte0 b) → t.status.result ≠ .needMore → t.rxNeed = 0#64) ∧
    (i ≠ .u8rst → i ≠ .u8feed → i ≠ .u8fin → t.u8State = s.u8State ∧ t.u8Count = s.u8Count) ∧
    (i = .u8rst → t.status.result = .ok) ∧ (i = .u8fin → t.status.result = .ok → t.u8State = s.u8State) ∧
    (i = .u8fin → t.status.result = .error → t.u8Count = s.u8Count)) ∧
  (∀ s : State, s.illegalCommand = endError s 0x40#8 0#16 s.cmd 0#64)

/-- The column "writes" of the table of R64: every byte outside a command's write ranges reads as before. -/
def Obligations.CommandsWriteOnlyTheirRanges : Prop :=
  ∀ (i : Instr) (s t : State) (a : Nat), exec i s = .next t →
    (∀ r ∈ s.writeRanges i, ¬(r.start ≤ a ∧ a < r.start + r.len)) → t.mem.read a = s.mem.read a

/-- The column "reads" of the table of R64: two memories that agree on a command's read ranges give the same results, and
every byte is either left alone in both or the same in both. -/
def Obligations.CommandsReadOnlyTheirRanges : Prop :=
  ∀ (i : Instr) (s : State) (m : Memory),
    (∀ r ∈ s.readRanges i, ∀ a, r.start ≤ a → a < r.start + r.len → m.read a = s.mem.read a) →
    ∃ t u : State, exec i s = .next t ∧ exec i { s with mem := m } = .next u ∧ u = { t with mem := u.mem } ∧
      ∀ a, (t.mem.read a = s.mem.read a ∧ u.mem.read a = m.read a) ∨ t.mem.read a = u.mem.read a

/-- A command that ends in ERROR or NEED_MORE has written no byte of memory (20_memory.md section 2, an inference of
the spec). -/
def Obligations.FailedCommandWritesNoMemory : Prop :=
  ∀ (i : Instr) (s t : State), exec i s = .next t → t.status.result ≠ .ok → t.mem = s.mem

/-- R63: a slice out of range makes MASK, U8FEED and PARSE raise `BoundsFault(a, n)` and touch nothing else. That the six
frame instructions do as PARSE does is the model's choice (log 12). -/
def Obligations.SliceOutOfRangeRaisesBoundsFault : Prop :=
  ∀ s : State, s.aLen ≠ 0#64 → s.cfg.memBytes < s.aSrc.toNat + s.aLen.toNat →
    (∀ p, exec (.mask p) s = .next (endError s 0x41#8 0#16 s.aSrc s.aLen)) ∧
    exec .u8feed s = .next (endError s 0x41#8 0#16 s.aSrc s.aLen) ∧
    (∀ z, exec (.parse z) s = .next (endParseError s 0x41#8 0#16 s.aSrc s.aLen)) ∧
    (∀ f a b c,
      exec (.frameContinuation f a b c) s = .next (endParseError s 0x41#8 0#16 s.aSrc s.aLen) ∧
      exec (.frameText f a b c) s = .next (endParseError s 0x41#8 0#16 s.aSrc s.aLen) ∧
      exec (.frameBinary f a b c) s = .next (endParseError s 0x41#8 0#16 s.aSrc s.aLen) ∧
      exec (.frameClose f a b c) s = .next (endParseError s 0x41#8 0#16 s.aSrc s.aLen) ∧
      exec (.framePing f a b c) s = .next (endParseError s 0x41#8 0#16 s.aSrc s.aLen) ∧
      exec (.framePong f a b c) s = .next (endParseError s 0x41#8 0#16 s.aSrc s.aLen))

/-- R263: the close hint of every error, by its code and where it was raised: 0 for MASK and SER, 0 for a frame whose byte-0
opcode is Close, else the table's. The clauses on frame instructions are the model's choice (log 12). -/
def Obligations.CloseHintFollowsTable : Prop :=
  ∀ (i : Instr) (s t : State), exec i s = .next t → t.status.result = .error →
    ((∃ p, i = .mask p) ∨ (∃ m, i = .ser m) → t.status.closeHint = 0#16) ∧
    ((∃ z, i = .parse z ∧ (byte0 s).extractLsb' 0 4 = 8#4) ∨
      (∃ b, encode i = .frameByte0 b ∧ b.extractLsb' 0 4 = 8#4) → t.status.closeHint = 0#16) ∧
    ((∃ z, i = .parse z ∧ (byte0 s).extractLsb' 0 4 ≠ 8#4) ∨
      (∃ b, encode i = .frameByte0 b ∧ b.extractLsb' 0 4 ≠ 8#4) ∨ i = .u8feed ∨ i = .u8fin →
      t.status.closeHint =
        if t.status.err = 0x0C#8 then 1007#16
        else if t.status.err = 0x09#8 then 1009#16
        else if t.status.err ∈ [0x03#8, 0x04#8, 0x05#8, 0x06#8, 0x07#8, 0x08#8, 0x0E#8] then 1002#16
        else 0#16)

/-! ## MASK -/

/-- R142: MASK writes the reference's bytes in place and the next phase, or raises `BoundsFault(a, n)`; everything else is
unchanged. -/
def Obligations.MaskAppliesKeyFromPhase : Prop :=
  ∀ (s : State) (p : Nat),
    (s.aLen = 0#64 ∨ s.aSrc.toNat + s.aLen.toNat ≤ s.cfg.memBytes →
      exec (.mask p) s =
        .next
          (endOk
            { s with
              mem :=
                s.mem.writeBytes s.aSrc.toNat (maskRef (s.mem.readBytes s.aSrc.toNat s.aLen.toNat) s.key p)
              maskPhase := BitVec.ofNat 2 ((p + s.aLen.toNat) % 4) })) ∧
    (¬(s.aLen = 0#64 ∨ s.aSrc.toNat + s.aLen.toNat ≤ s.cfg.memBytes) →
      exec (.mask p) s = .next (endError s 0x41#8 0#16 s.aSrc s.aLen))

/-- R140: byte i of the reference is byte i XORed with key byte (i + P) mod 4, and nothing more. -/
def Obligations.ReferenceMaskByteFormula : Prop :=
  ∀ (bs : List Byte) (k : BitVec 32) (p : Nat),
    (maskRef bs k p).length = bs.length ∧
    ∀ (i : Nat) (h : i < bs.length), (maskRef bs k p)[i]? =
      some (bs[i] ^^^ (wireKey k).getD ((i + p) % 4) 0#8)

/-- R141: no command's result depends on `DISPATCH.SEL` or on which SIMD paths exist, every path masks a slice into exactly
the reference's bytes, and a register read answers the same under every `SEL` but at `DISPATCH`. -/
def Obligations.DispatchChangesNoResult : Prop :=
  (∀ (s : State) (sel : BitVec 2) (k : BitVec 32) (p a : Nat) (bs : List Byte),
    { s with sel := sel }.maskSlice k p a bs = maskRef bs k p) ∧
  (∀ (s : State) (sel : BitVec 2) (off : Nat), off ≠ 0x018 → { s with sel := sel }.regRead off = s.regRead off) ∧
  ∀ (i : Instr) (s t : State) (sel : BitVec 2) (v128 v256 v512 : Bool), exec i s = .next t →
    exec i { s with sel := sel, cfg := { s.cfg with hasV128 := v128, hasV256 := v256, hasV512 := v512 } } =
      .next { t with sel := sel, cfg := { t.cfg with hasV128 := v128, hasV256 := v256, hasV512 := v512 } }

/-- The pipeline's structure (41_mask.md section 3): on every path the head ends at a W-aligned address or takes the whole
slice, the tail is shorter than a vector, and lane b of every bulk vector m gets the key byte of its slice offset. -/
def Obligations.PipelineSplitsSliceAtLaneBoundaries : Prop :=
  ∀ (sel : BitVec 2) (a n p : Nat) (k : BitVec 32),
    laneBytes sel = (if sel = 0#2 then 4 else if sel = 1#2 then 16 else if sel = 2#2 then 32 else 64) ∧
    (headLen (laneBytes sel) a n = n ∨ (a + headLen (laneBytes sel) a n) % laneBytes sel = 0) ∧
    headLen (laneBytes sel) a n < laneBytes sel ∧
    headLen (laneBytes sel) a n + bulkVectors (laneBytes sel) a n * laneBytes sel ≤ n ∧
    n - (headLen (laneBytes sel) a n + bulkVectors (laneBytes sel) a n * laneBytes sel) < laneBytes sel ∧
    ∀ m b : Nat, b < laneBytes sel →
      (vectorKey (laneBytes sel) k ((p + headLen (laneBytes sel) a n) % 4))[b]? =
        some ((wireKey k).getD ((p + (headLen (laneBytes sel) a n + m * laneBytes sel + b)) % 4) 0#8)

/-- Involution (41_mask.md section 4, an inference of the spec): the same MASK twice restores every byte. -/
def Obligations.MaskTwiceRestoresMemory : Prop :=
  ∀ (s t u : State) (p : Nat), exec (.mask p) s = .next t → exec (.mask p) t = .next u →
    ∀ a, u.mem.read a = s.mem.read a

/-- Phase chaining (41_mask.md section 4, an inference of the spec): two MASK commands, the second from the phase the first
left, give the bytes and the phase of one. -/
def Obligations.MaskPhaseChains : Prop :=
  ∀ (s t u v : State) (p : Nat) (n1 n2 : Word), p < 4 → s.aSrc.toNat + n1.toNat + n2.toNat ≤ s.cfg.memBytes →
    n1.toNat + n2.toNat < 2 ^ 64 →
    exec (.mask p) { s with aLen := n1 } = .next t →
    exec (.mask t.maskPhase.toNat) { t with aSrc := s.aSrc + n1, aLen := n2 } = .next u →
    exec (.mask p) { s with aLen := n1 + n2 } = .next v →
    u.maskPhase = v.maskPhase ∧ ∀ a, u.mem.read a = v.mem.read a

/-- Zero and identity (41_mask.md section 4, an inference of the spec): no length or no key changes no byte, and a phase and
that phase plus four are the same. -/
def Obligations.MaskWithoutLengthOrKeyChangesNoByte : Prop :=
  ∀ (s t : State) (p : Nat), exec (.mask p) s = .next t →
    (s.aLen = 0#64 ∨ s.key = 0#32 → ∀ a, t.mem.read a = s.mem.read a) ∧ exec (.mask (p + 4)) s = exec (.mask p) s

/-! ## PARSE and the frames -/

/-- R165: the three points at which PARSE returns NEED_MORE, each with its count; nothing but `STATUS`, the error operands and
`RX_NEED` changes. -/
def Obligations.ParseAsksForTheMissingBytes : Prop :=
  ∀ (s : State) (z : Bool), s.inRange s.aSrc.toNat s.aLen.toNat = true →
    (s.aLen.toNat < 2 → exec (.parse z) s = .next (endNeedMore s (2 - s.aLen.toNat))) ∧
    (2 ≤ s.aLen.toNat → byte0Accepted s.ctrl (byte0 s) → roleAccepted s.ctrl (masked s) →
      (s.aLen.toNat < 2 + ext s → exec (.parse z) s = .next (endNeedMore s (hdrLen s - s.aLen.toNat))) ∧
      (2 + ext s ≤ s.aLen.toNat → lengthFormAccepted s → lengthAccepted s ((byte0 s).extractLsb' 0 4) →
        (s.aLen.toNat < hdrLen s → exec (.parse z) s = .next (endNeedMore s (hdrLen s - s.aLen.toNat))) ∧
        (hdrLen s ≤ s.aLen.toNat → s.aLen.toNat < hdrLen s + frameLen s →
          exec (.parse z) s = .next (endNeedMore s (hdrLen s + frameLen s - s.aLen.toNat)))))

/-- R162: the byte-0 checks, in their order, with their codes and operands. -/
def Obligations.ParseChecksByteZeroInOrder : Prop :=
  ∀ (s : State) (z : Bool) (op : BitVec 4), s.inRange s.aSrc.toNat s.aLen.toNat = true → 2 ≤ s.aLen.toNat →
    op = (byte0 s).extractLsb' 0 4 →
    (op ∈ [3#4, 4#4, 5#4, 6#4, 7#4, 11#4, 12#4, 13#4, 14#4, 15#4] →
      exec (.parse z) s =
        .next (endParseError s 0x03#8 1002#16 (op.setWidth 64) ((byte0 s).setWidth 64))) ∧
    (isControl op → (byte0 s).getLsbD 7 = false →
      exec (.parse z) s =
        .next (endParseError s 0x05#8 (protocolHint op) (op.setWidth 64) ((byte0 s).setWidth 64))) ∧
    (isKnown op → (isControl op → (byte0 s).getLsbD 7 = true) →
      ∀ u : Byte, u = byte0 s &&& 0x70#8 &&& ~~~ (s.ctrl.toWord.extractLsb' 0 8 &&& 0x70#8) → u ≠ 0#8 →
      exec (.parse z) s =
        .next (endParseError s 0x04#8 (protocolHint op) (u.setWidth 64) ((byte0 s).setWidth 64)))

/-- R164: the role-masking check. -/
def Obligations.ParseChecksMaskingByRole : Prop :=
  ∀ (s : State) (z : Bool), s.inRange s.aSrc.toNat s.aLen.toNat = true → 2 ≤ s.aLen.toNat →
    byte0Accepted s.ctrl (byte0 s) →
    (s.ctrl.server = true → masked s = false → s.ctrl.acceptUnmasked = false →
      exec (.parse z) s =
        .next (endParseError s 0x07#8 (protocolHint ((byte0 s).extractLsb' 0 4)) ((byte1 s).setWidth 64) 0#64)) ∧
    (s.ctrl.server = false → masked s = true →
      exec (.parse z) s =
        .next (endParseError s 0x08#8 (protocolHint ((byte0 s).extractLsb' 0 4)) ((byte1 s).setWidth 64) 0#64))

/-- R163: the length checks, in their order, with their codes and operands. -/
def Obligations.ParseChecksLengthInOrder : Prop :=
  ∀ (s : State) (z : Bool) (op : BitVec 4), s.inRange s.aSrc.toNat s.aLen.toNat = true → 2 + ext s ≤ s.aLen.toNat →
    op = (byte0 s).extractLsb' 0 4 → byte0Accepted s.ctrl (byte0 s) → roleAccepted s.ctrl (masked s) →
    (ext s = 8 → 2 ^ 63 ≤ frameLen s →
      exec (.parse z) s =
        .next (endParseError s 0x0E#8 (protocolHint op) 1#64 (BitVec.ofNat 64 (frameLen s)))) ∧
    (s.ctrl.strictLen = true →
      (ext s = 2 ∧ frameLen s < 126) ∨ (ext s = 8 ∧ frameLen s < 65536) →
      exec (.parse z) s =
        .next (endParseError s 0x0E#8 (protocolHint op) 2#64 (BitVec.ofNat 64 (frameLen s)))) ∧
    (lengthFormAccepted s → isControl op → 125 < frameLen s →
      exec (.parse z) s =
        .next (endParseError s 0x06#8 (protocolHint op) (BitVec.ofNat 64 (frameLen s)) 125#64)) ∧
    (lengthFormAccepted s → (isControl op → frameLen s ≤ 125) → s.maxFrame.toNat < frameLen s →
      exec (.parse z) s =
        .next
          (endParseError s 0x09#8 (if op = 8#4 then 0#16 else 1009#16) (BitVec.ofNat 64 (frameLen s)) s.maxFrame))

/-- R166, R167 and R171 on every frame but Close: an accepted, whole frame ends OK with its payload unmasked and placed and
its fields reported, and nothing else changes. PARSE takes byte 0 from memory and Z from its flag; a frame instruction
has byte 0 of its own and the pending command's Z (log 12). -/
def Obligations.AcceptedFrameIsDelivered : Prop :=
  (∀ (s : State) (z : Bool), frameAccepted s (byte0 s) → (byte0 s).extractLsb' 0 4 ≠ 8#4 → placeAccepted s z →
    exec (.parse z) s = .next (parsedState s z (byte0 s) noClose)) ∧
  (∀ (s : State) (f a b c : Bool), placeAccepted s (s.cmd.getLsbD 8) →
    (frameAccepted s (frameByte0 f a b c 0x0#4) → exec (.frameContinuation f a b c) s =
      .next (parsedState s (s.cmd.getLsbD 8) (frameByte0 f a b c 0x0#4) noClose)) ∧
    (frameAccepted s (frameByte0 f a b c 0x1#4) → exec (.frameText f a b c) s =
      .next (parsedState s (s.cmd.getLsbD 8) (frameByte0 f a b c 0x1#4) noClose)) ∧
    (frameAccepted s (frameByte0 f a b c 0x2#4) → exec (.frameBinary f a b c) s =
      .next (parsedState s (s.cmd.getLsbD 8) (frameByte0 f a b c 0x2#4) noClose)) ∧
    (frameAccepted s (frameByte0 f a b c 0x9#4) → exec (.framePing f a b c) s =
      .next (parsedState s (s.cmd.getLsbD 8) (frameByte0 f a b c 0x9#4) noClose)) ∧
    (frameAccepted s (frameByte0 f a b c 0xA#4) → exec (.framePong f a b c) s =
      .next (parsedState s (s.cmd.getLsbD 8) (frameByte0 f a b c 0xA#4) noClose)))

/-- R168 and R169 on an accepted Close frame: an empty payload reports 1005 as absent; a payload whose reason is valid UTF-8
reports its code, whether that is sendable, and the reason's length. Both for PARSE and for the Close frame
instruction, which is the model's choice (log 12). -/
def Obligations.CloseFrameIsDecoded : Prop :=
  ∀ (s : State) (z : Bool) (b0 : Byte) (i : Instr),
    (i = .parse z ∧ b0 = byte0 s) ∨
      (z = s.cmd.getLsbD 8 ∧ ∃ f a b c, i = .frameClose f a b c ∧ b0 = frameByte0 f a b c 0x8#4) →
    b0.extractLsb' 0 4 = 8#4 → frameAccepted s b0 → placeAccepted s z →
    (frameLen s = 0 → exec i s =
      .next (parsedState s z b0 { code := 1005#16, present := false, valid := false, reasonLen := 0#7 })) ∧
    (∀ (c0 c1 : Byte) (reason : List Byte), plainPayload s = c0 :: c1 :: reason → validUtf8 reason →
      ∃ valid : Bool, (valid = true ↔ sendable (c0.toNat * 256 + c1.toNat)) ∧
        exec i s =
          .next
            (parsedState s z b0
              { code := c0 ++ c1, present := true, valid := valid, reasonLen := BitVec.ofNat 7 (frameLen s - 2) }))

/-- R168: a Close payload of one byte, a reason with a rejecting byte, and a reason that ends inside a sequence. -/
def Obligations.CloseFrameErrors : Prop :=
  ∀ (s : State) (z : Bool), (byte0 s).extractLsb' 0 4 = 8#4 → frameAccepted s (byte0 s) →
    (frameLen s = 1 → exec (.parse z) s = .next (endParseError s 0x0E#8 0#16 3#64 1#64)) ∧
    (∀ (c0 c1 b : Byte) (before after : List Byte), plainPayload s = c0 :: c1 :: (before ++ b :: after) →
      runUtf8 .accept before ≠ .reject → delta (runUtf8 .accept before) b = .reject →
      exec (.parse z) s =
        .next
          (endParseError s 0x0C#8 0#16 (BitVec.ofNat 64 (2 + before.length))
            ((runUtf8 .accept before).code.setWidth 64))) ∧
    (∀ (c0 c1 : Byte) (reason : List Byte), plainPayload s = c0 :: c1 :: reason →
      runUtf8 .accept reason ≠ .accept → runUtf8 .accept reason ≠ .reject →
      exec (.parse z) s =
        .next
          (endParseError s 0x0C#8 0#16 (BitVec.ofNat 64 (frameLen s)) ((runUtf8 .accept reason).code.setWidth 64)))

/-- R167: with Z = 0 a destination out of range raises `BoundsFault(dst, len)`, after every other check. -/
def Obligations.ParseDestinationOutOfRange : Prop :=
  ∀ s : State, frameAccepted s (byte0 s) → s.inRange s.aDst.toNat (frameLen s) = false →
    ((byte0 s).extractLsb' 0 4 = 8#4 →
      ∃ (c0 c1 : Byte) (reason : List Byte), plainPayload s = c0 :: c1 :: reason ∧ validUtf8 reason) →
    exec (.parse false) s = .next (endParseError s 0x41#8 0#16 s.aDst (BitVec.ofNat 64 (frameLen s)))

/-- Determinism (42_frame_parse.md section 3, an inference of the spec): the outcome of a PARSE depends on no byte of memory
beyond offset `min(avail, hl + len)`; with Z = 0 the payload written is the same. -/
def Obligations.ParseDependsOnlyOnTheFrame : Prop :=
  ∀ (s : State) (z : Bool) (m : Memory),
    (∀ x, x < min s.aLen.toNat (hdrLen s + frameLen s) → m.read (s.aSrc.toNat + x) = s.mem.read (s.aSrc.toNat + x)) →
    ∃ t u : State, exec (.parse z) s = .next t ∧ exec (.parse z) { s with mem := m } = .next u ∧
      u = { t with mem := u.mem } ∧
      (z = false → t.status.result = .ok →
        u.mem.readBytes s.aDst.toNat t.rxLen.toNat = t.mem.readBytes s.aDst.toNat t.rxLen.toNat)

/-- Progress (42_frame_parse.md section 3, an inference of the spec): after NEED_MORE(n) a PARSE of any extension of the
buffered bytes by at least n bytes ends OK or ERROR, or asks for a strictly larger total, and no total exceeds
`14 + MAX_FRAME`. -/
def Obligations.NeedMoreMakesProgress : Prop :=
  ∀ (s t u : State) (z : Bool) (m : Memory) (avail : Word), exec (.parse z) s = .next t →
    t.status.result = .needMore →
    s.aLen.toNat + t.rxNeed.toNat ≤ 14 + s.maxFrame.toNat ∧
    ((∀ x, x < s.aLen.toNat → m.read (s.aSrc.toNat + x) = s.mem.read (s.aSrc.toNat + x)) →
      s.aLen.toNat + t.rxNeed.toNat ≤ avail.toNat →
      exec (.parse z) { s with mem := m, aLen := avail } = .next u → u.status.result = .needMore →
      s.aLen.toNat + t.rxNeed.toNat < avail.toNat + u.rxNeed.toNat)

/-- Round trip (42_frame_parse.md section 3, an inference of the spec): what an endpoint serializes, an endpoint of the
opposite role with the same claims and limit parses back: the same byte 0, length and payload bytes, consuming exactly
what was emitted. -/
def Obligations.SerializeThenParseRoundTrip : Prop :=
  ∀ (s t : State) (z strict acceptUnmasked : Bool) (d : Word),
    txHeaderAccepted s.ctrl s.txHdr s.aLen.toNat → s.aLen.toNat ≤ s.maxFrame.toNat →
    (s.txHdr.extractLsb' 0 4 = 8#4 →
      s.slice = [] ∨ ∃ c0 c1 reason, s.slice = c0 :: c1 :: reason ∧ validUtf8 reason) →
    (z = false → s.inRange d.toNat s.aLen.toNat = true) →
    exec (.ser (!s.ctrl.server)) s = .next t → t.status.result = .ok →
    ∃ u : State,
      exec (.parse z)
          { t with
            ctrl :=
              { t.ctrl with server := !t.ctrl.server, strictLen := strict, acceptUnmasked := acceptUnmasked }
            aSrc := t.aDst, aLen := t.txOutLen, aDst := d } = .next u ∧
        u.status.result = .ok ∧ u.rxHdr.b0 = s.txHdr ∧ u.rxLen = s.aLen ∧ u.rxConsumed = t.txOutLen ∧
        u.mem.readBytes u.rxPayload.toNat s.aLen.toNat = s.slice

/-! ## SER -/

/-- R200, R201 and R204: an accepted frame is emitted at `A_DST`, byte for byte, with the shortest length form; `TX_OUT_LEN`
is its size, and nothing else changes. -/
def Obligations.SerEmitsTheFrame : Prop :=
  ∀ (s : State) (m : Bool), txHeaderAccepted s.ctrl s.txHdr s.aLen.toNat → txRoleAccepted s.ctrl m →
    s.inRange s.aSrc.toNat s.aLen.toNat = true →
    s.aDst.toNat + (txLen m s.aLen.toNat + s.aLen.toNat) ≤ s.cfg.memBytes →
    (txFrame s m).length = txLen m s.aLen.toNat + s.aLen.toNat ∧
    exec (.ser m) s =
      .next
        (endOk
          { s with
            mem := s.mem.writeBytes s.aDst.toNat (txFrame s m)
            txOutLen := BitVec.ofNat 64 (txLen m s.aLen.toNat + s.aLen.toNat) })

/-- R202: the header checks of SER, in their order, with their codes and operands. -/
def Obligations.SerChecksHeaderInOrder : Prop :=
  ∀ (s : State) (m : Bool) (op : BitVec 4) (len : Nat), op = s.txHdr.extractLsb' 0 4 → len = s.aLen.toNat →
    (op ∈ [3#4, 4#4, 5#4, 6#4, 7#4, 11#4, 12#4, 13#4, 14#4, 15#4] →
      exec (.ser m) s = .next (endError s 0x03#8 0#16 (op.setWidth 64) (s.txHdr.setWidth 64))) ∧
    (isControl op → s.txHdr.getLsbD 7 = false →
      exec (.ser m) s = .next (endError s 0x05#8 0#16 (op.setWidth 64) (s.txHdr.setWidth 64))) ∧
    (isControl op → s.txHdr.getLsbD 7 = true → 125 < len →
      exec (.ser m) s = .next (endError s 0x06#8 0#16 s.aLen 125#64)) ∧
    (isKnown op → (isControl op → s.txHdr.getLsbD 7 = true ∧ len ≤ 125) →
      ∀ u : Byte, u = s.txHdr &&& 0x70#8 &&& ~~~ (s.ctrl.toWord.extractLsb' 0 8 &&& 0x70#8) →
      (u ≠ 0#8 → exec (.ser m) s = .next (endError s 0x04#8 0#16 (u.setWidth 64) (s.txHdr.setWidth 64))) ∧
      (u = 0#8 → 2 ^ 63 ≤ len →
        exec (.ser m) s = .next (endError s 0x09#8 0#16 s.aLen 0x7FFFFFFFFFFFFFFF#64)))

/-- R203: role conformance of outbound frames. -/
def Obligations.SerChecksMaskingByRole : Prop :=
  ∀ s : State, txHeaderAccepted s.ctrl s.txHdr s.aLen.toNat →
    (s.ctrl.server = false → exec (.ser false) s = .next (endError s 0x07#8 0#16 0#64 1#64)) ∧
    (s.ctrl.server = true → exec (.ser true) s = .next (endError s 0x08#8 0#16 1#64 1#64))

/-- R205: both ranges are checked after the header and role checks, the source first. -/
def Obligations.SerChecksBothRanges : Prop :=
  ∀ (s : State) (m : Bool), txHeaderAccepted s.ctrl s.txHdr s.aLen.toNat → txRoleAccepted s.ctrl m →
    (s.inRange s.aSrc.toNat s.aLen.toNat = false →
      exec (.ser m) s = .next (endError s 0x41#8 0#16 s.aSrc s.aLen)) ∧
    (s.inRange s.aSrc.toNat s.aLen.toNat = true →
      s.cfg.memBytes < s.aDst.toNat + (txLen m s.aLen.toNat + s.aLen.toNat) →
      exec (.ser m) s =
        .next (endError s 0x41#8 0#16 s.aDst (BitVec.ofNat 64 (txLen m s.aLen.toNat + s.aLen.toNat))))

/-- Output size and masking conformance (43_frame_serialize.md section 3, inferences of the spec): a SER that ends OK reports
the wire size of the frame, byte 0 of the output is `TX_HDR`, and its MASK bit is the role's. -/
def Obligations.SerializedFrameConformsToRole : Prop :=
  ∀ (s t : State) (m : Bool), exec (.ser m) s = .next t → t.status.result = .ok →
    t.txOutLen.toNat = txLen m s.aLen.toNat + s.aLen.toNat ∧ t.mem.read s.aDst.toNat = s.txHdr ∧
      (t.mem.read (s.aDst.toNat + 1)).getLsbD 7 = !s.ctrl.server

/-! ## The UTF-8 validator -/

/-- The codes of the nine states (R220), in which `U8_STATE` and the error operands give a state; and the transition table of
44_utf8.md section 1, which the spec takes from general knowledge (log 22). -/
def Obligations.Utf8TransitionTable : Prop :=
  (Utf8State.code .accept = 0#4 ∧ Utf8State.code .t1 = 1#4 ∧ Utf8State.code .t2 = 2#4 ∧ Utf8State.code .t3 = 3#4 ∧
    Utf8State.code .e0 = 4#4 ∧ Utf8State.code .ed = 5#4 ∧ Utf8State.code .f0 = 6#4 ∧ Utf8State.code .f4 = 7#4 ∧
    Utf8State.code .reject = 8#4) ∧
  ∀ b : Byte,
    (b.toNat ≤ 0x7F → delta .accept b = .accept) ∧
    (0x80 ≤ b.toNat ∧ b.toNat ≤ 0xC1 → delta .accept b = .reject) ∧
    (0xC2 ≤ b.toNat ∧ b.toNat ≤ 0xDF → delta .accept b = .t1) ∧
    (b.toNat = 0xE0 → delta .accept b = .e0) ∧
    (0xE1 ≤ b.toNat ∧ b.toNat ≤ 0xEC → delta .accept b = .t2) ∧
    (b.toNat = 0xED → delta .accept b = .ed) ∧
    (0xEE ≤ b.toNat ∧ b.toNat ≤ 0xEF → delta .accept b = .t2) ∧
    (b.toNat = 0xF0 → delta .accept b = .f0) ∧
    (0xF1 ≤ b.toNat ∧ b.toNat ≤ 0xF3 → delta .accept b = .t3) ∧
    (b.toNat = 0xF4 → delta .accept b = .f4) ∧
    (0xF5 ≤ b.toNat → delta .accept b = .reject) ∧
    delta .t1 b = (if 0x80 ≤ b.toNat ∧ b.toNat ≤ 0xBF then .accept else .reject) ∧
    delta .t2 b = (if 0x80 ≤ b.toNat ∧ b.toNat ≤ 0xBF then .t1 else .reject) ∧
    delta .t3 b = (if 0x80 ≤ b.toNat ∧ b.toNat ≤ 0xBF then .t2 else .reject) ∧
    delta .e0 b = (if 0xA0 ≤ b.toNat ∧ b.toNat ≤ 0xBF then .t1 else .reject) ∧
    delta .ed b = (if 0x80 ≤ b.toNat ∧ b.toNat ≤ 0x9F then .t1 else .reject) ∧
    delta .f0 b = (if 0x90 ≤ b.toNat ∧ b.toNat ≤ 0xBF then .t2 else .reject) ∧
    delta .f4 b = (if 0x80 ≤ b.toNat ∧ b.toNat ≤ 0x8F then .t2 else .reject) ∧
    delta .reject b = .reject

/-- The language of the automaton (44_utf8.md section 1): it ends in ACCEPT exactly on the concatenations of well-formed
sequences, and it ends outside REJECT exactly on their prefixes. -/
def Obligations.AutomatonAcceptsExactlyUtf8 : Prop :=
  ∀ bs : List Byte,
    (runUtf8 .accept bs = .accept ↔ validUtf8 bs) ∧
    (runUtf8 .accept bs ≠ .reject ↔ ∃ rest : List Byte, validUtf8 (bs ++ rest))

/-- R223: U8RST clears the validator. -/
def Obligations.ResetValidator : Prop :=
  ∀ s : State, exec .u8rst s = .next (endOk { s with u8State := .accept, u8Count := 0#64 })

/-- R224: U8FEED on a slice in range goes to its end, to its first rejecting byte, or is sticky in REJECT; on a slice out of
range it raises `BoundsFault(a, n)`; everything else is unchanged. -/
def Obligations.FeedValidator : Prop :=
  ∀ s : State,
    (s.inRange s.aSrc.toNat s.aLen.toNat = false →
      exec .u8feed s = .next (endError s 0x41#8 0#16 s.aSrc s.aLen)) ∧
    (s.inRange s.aSrc.toNat s.aLen.toNat = true →
      (s.u8State = .reject → exec .u8feed s = .next (endError s 0x0C#8 1007#16 0#64 8#64)) ∧
      (runUtf8 s.u8State s.slice ≠ .reject →
        exec .u8feed s =
          .next (endOk { s with u8State := runUtf8 s.u8State s.slice, u8Count := s.u8Count + s.aLen })) ∧
      (∀ (before after : List Byte) (b : Byte), s.slice = before ++ b :: after →
        runUtf8 s.u8State before ≠ .reject → delta (runUtf8 s.u8State before) b = .reject →
        exec .u8feed s =
          .next
            (endError { s with u8State := .reject, u8Count := s.u8Count + BitVec.ofNat 64 before.length } 0x0C#8 1007#16
              (BitVec.ofNat 64 before.length) ((runUtf8 s.u8State before).code.setWidth 64))))

/-- R225: U8FIN ends OK only from ACCEPT, clearing the count; from any other state it is an error and the state is REJECT. -/
def Obligations.FinishValidator : Prop :=
  ∀ s : State,
    (s.u8State = .accept → exec .u8fin s = .next (endOk { s with u8Count := 0#64 })) ∧
    (s.u8State ≠ .accept →
      exec .u8fin s =
        .next (endError { s with u8State := .reject } 0x0C#8 1007#16 s.u8Count (s.u8State.code.setWidth 64)))

/-- Split invariance (44_utf8.md section 3, an inference of the spec): feeding a slice in two parts leaves the validator as
feeding it whole does, and the whole ends OK exactly when both parts do. -/
def Obligations.FeedingInPartsIsFeedingWhole : Prop :=
  ∀ (s t u v : State) (n1 n2 : Word), s.aSrc.toNat + n1.toNat + n2.toNat ≤ s.cfg.memBytes →
    n1.toNat + n2.toNat < 2 ^ 64 →
    exec .u8feed { s with aLen := n1 } = .next t →
    exec .u8feed { t with aSrc := s.aSrc + n1, aLen := n2 } = .next u →
    exec .u8feed { s with aLen := n1 + n2 } = .next v →
    u.u8State = v.u8State ∧ u.u8Count = v.u8Count ∧
      (v.status.result = .ok ↔ t.status.result = .ok ∧ u.status.result = .ok)

/-- The verdict on a message (44_utf8.md section 3, an inference of the spec): U8RST, U8FEED and U8FIN end OK exactly when the
slice is valid UTF-8, and the validator is then ready for the next message. -/
def Obligations.ValidatorVerdictIsUtf8 : Prop :=
  ∀ s a b c : State, s.inRange s.aSrc.toNat s.aLen.toNat = true →
    exec .u8rst s = .next a → exec .u8feed a = .next b → exec .u8fin b = .next c →
    (c.status.result = .ok ↔ validUtf8 s.slice) ∧ (c.status.result = .ok → c.u8State = .accept ∧ c.u8Count = 0#64)

/-- R268: the REJECT state survives every command but U8RST. -/
def Obligations.RejectSurvivesUntilReset : Prop :=
  ∀ (i : Instr) (s t : State), s.u8State = .reject → exec i s = .next t → t.u8State = .reject ∨ i = .u8rst

/-! ## Registers, reset and the host -/

/-- R303: every register's value after reset, for every choice of the parameters and of the memory's contents. -/
def Obligations.ResetValuesOfEveryRegister : Prop :=
  ∀ (p : Params) (m : Memory) (s : State), s = State.powerOn p m →
    s.regRead 0x000 = 0x0000000057535253#64 ∧
    s.regRead 0x008 =
      (if p.hasV512 then 8#64 else 0#64) ||| (if p.hasV256 then 4#64 else 0#64) |||
        (if p.hasV128 then 2#64 else 0#64) ||| 1#64 ∧
    s.regRead 0x010 = 0x0000000000000004#64 ∧
    s.regRead 0x018 = (if p.hasV512 then 3#64 else if p.hasV256 then 2#64 else if p.hasV128 then 1#64 else 0#64) ∧
    s.regRead 0x020 = p.resetMaxFrame ∧
    (∀ off ∈ [0x028, 0x030, 0x038, 0x040, 0x048, 0x050, 0x058, 0x060, 0x068, 0x070, 0x078, 0x080, 0x088, 0x090,
      0x098, 0x0A0, 0x0A8, 0x0B0, 0x0B8, 0x0C0], s.regRead off = 0#64) ∧
    s.pending = none ∧ s.mem = m

/-- The invariant holds after reset, for every choice of the parameters. -/
def Obligations.InvariantHoldsAtReset : Prop :=
  inv State.reset = true ∧ ∀ p : Params, inv (State.powerOn p []) = true

/-- Every step of the engine, the host or the platform keeps the invariant: the selected path is present, the memory is
canonical and inside the window, `MAX_FRAME` is not 0, and the status, receive and close registers agree. -/
def Obligations.StepKeepsInvariant : Prop :=
  ∀ s t : State, inv s = true → step s = .next t → inv t = true

/-- No step changes the implementation's parameters. -/
def Obligations.StepKeepsParameters : Prop :=
  ∀ s t : State, step s = .next t → t.cfg = s.cfg

/-- While no command is pending, every register reads the fields the state holds for it, at the bit positions of R21 to R42,
and reserved offsets read 0. What a register write then does to every register's value: CTRL, KEY and TX_HDR keep their defined
bits, A_SRC, A_DST and A_LEN all 64, MAX_FRAME ignores 0, DISPATCH ignores an absent path, read-only and reserved
offsets ignore the write (10_state.md sections 3, 5 and 8). And the host's aligned 8-byte moves make these writes (also while
a command is pending) and these reads; a read while no command is pending changes nothing but the model's list of answers and
its draw counter (logs 4, 6), and a `poll` (R94; one move by the model's choice, log 19) is then a read of STATUS that answers
BUSY = 0. -/
def Obligations.RegisterWriteReadsBack : Prop :=
  (∀ (s : State) (off : Nat) (v : Word), off % 8 = 0 → off < 0x100 →
    s.hostMove (.regWrite off 8 v) = .next (s.regWrite off v) ∧
    (s.status.busy = false → s.hostMove (.regRead off 8) =
      .next { s with port := { s.port with reads := s.regRead off :: s.port.reads }, draws := s.draws + 1 })) ∧
  (∀ s : State, s.status.busy = false →
    s.hostMove .poll = s.hostMove (.regRead 0x030 8) ∧ (s.regRead 0x030).getLsbD 0 = false) ∧
  (∀ s : State, s.status.busy = false →
    s.regRead 0x000 = 0x0000000057535253#64 ∧
    s.regRead 0x008 = 1#64 ||| bit s.cfg.hasV128 <<< 1 ||| bit s.cfg.hasV256 <<< 2 ||| bit s.cfg.hasV512 <<< 3 ∧
    s.regRead 0x010 = ctrlBits s.ctrl ∧ s.regRead 0x018 = s.sel.setWidth 64 ∧ s.regRead 0x020 = s.maxFrame ∧
    s.regRead 0x028 = s.cmd ∧ s.regRead 0x030 = statusBits s.status ∧ s.regRead 0x038 = s.errInfo0 ∧
    s.regRead 0x040 = s.errInfo1 ∧ s.regRead 0x048 = s.aSrc ∧ s.regRead 0x050 = s.aDst ∧ s.regRead 0x058 = s.aLen ∧
    s.regRead 0x060 = s.key.setWidth 64 ∧ s.regRead 0x068 = s.txHdr.setWidth 64 ∧ s.regRead 0x070 = s.txOutLen ∧
    s.regRead 0x078 = s.maskPhase.setWidth 64 ∧ s.regRead 0x080 = rxHdrBits s.rxHdr ∧ s.regRead 0x088 = s.rxLen ∧
    s.regRead 0x090 = s.rxKey.setWidth 64 ∧ s.regRead 0x098 = s.rxPayload ∧ s.regRead 0x0A0 = s.rxConsumed ∧
    s.regRead 0x0A8 = s.rxNeed ∧ s.regRead 0x0B0 = rxCloseBits s.rxClose ∧ s.regRead 0x0B8 = utf8Code s.u8State ∧
    s.regRead 0x0C0 = s.u8Count ∧ ∀ off, 0x0C8 ≤ off → s.regRead off = 0#64) ∧
  ∀ (s : State) (off off' : Nat) (v : Word), s.status.busy = false → off ≠ 0x028 →
    (s.regWrite off v).regRead off' =
      if off' ≠ off then s.regRead off'
      else if off = 0x010 then v &&& 0x77#64
      else if off = 0x018 then
        (if (v.extractLsb' 0 2 = 1#2 ∧ s.cfg.hasV128 = false) ∨ (v.extractLsb' 0 2 = 2#2 ∧ s.cfg.hasV256 = false) ∨
            (v.extractLsb' 0 2 = 3#2 ∧ s.cfg.hasV512 = false)
          then s.regRead 0x018 else v &&& 3#64)
      else if off = 0x020 then (if v = 0#64 then s.regRead 0x020 else v)
      else if off = 0x048 ∨ off = 0x050 ∨ off = 0x058 then v
      else if off = 0x060 then v &&& 0xFFFFFFFF#64
      else if off = 0x068 then v &&& 0xFF#64
      else s.regRead off

/-- R121 with R26: an accepted `CMD` write stores the word and sets `BUSY`, and changes no other field; while `BUSY` = 1
every register write is ignored, `CMD` included. -/
def Obligations.AcceptedCmdWriteIssues : Prop :=
  ∀ (s : State) (v : Word),
    (s.status.busy = false →
      s.regWrite 0x028 v = { s with cmd := v, status := { s.status with busy := true } }) ∧
    (∀ off : Nat, s.status.busy = true → s.regWrite off v = s)

/-- R120 while `BUSY` = 1: `STATUS` reads with bit 0 = 1, the operand and configuration registers read back, reserved offsets
read 0, and the host's aligned 8-byte read answers exactly this and changes no register, flag or memory byte. A `poll` (R94; one move by the model's choice, log 19)
reads STATUS with bit 0 = 1 and stays the host's next move. -/
def Obligations.ReadsWhileBusy : Prop :=
  ∀ s : State, s.status.busy = true →
    (s.regRead 0x030).getLsbD 0 = true ∧
    (∀ off ∈ [0x000, 0x008, 0x010, 0x018, 0x020, 0x028, 0x048, 0x050, 0x058, 0x060, 0x068],
      s.regRead off = { s with status := { s.status with busy := false } }.regRead off) ∧
    (∀ off, 0x0C8 ≤ off → s.regRead off = 0#64) ∧
    (∀ off, off % 8 = 0 → off < 0x100 → s.hostMove (.regRead off 8) =
      .next { s with port := { s.port with reads := s.regRead off :: s.port.reads }, draws := s.draws + 1 }) ∧
    s.hostMove .poll =
      .next
        { s with
          port := { queue := .poll :: s.port.queue, reads := s.regRead 0x030 :: s.port.reads }
          draws := s.draws + 1 }

/-- R44: any register access that is not 8 bytes wide at a multiple of 8 is refused, by name. An aligned 8-byte access at or
above offset 0x100, which is not part of the block (R43), is refused by a name of its own; the names are the model's
(log 10). -/
def Obligations.OtherRegisterAccessesAreRefused : Prop :=
  ∀ (s : State) (off width : Nat) (v : Word),
    (width ≠ 8 ∨ off % 8 ≠ 0 →
      s.hostMove (.regRead off width) = .refused .registerAccessForm ∧
      s.hostMove (.regWrite off width v) = .refused .registerAccessForm) ∧
    (width = 8 → off % 8 = 0 → 0x100 ≤ off →
      s.hostMove (.regRead off width) = .refused .outsideRegisterSpace ∧
      s.hostMove (.regWrite off width v) = .refused .outsideRegisterSpace)

/-- A host memory access with no command pending: a byte of the window reads as stored and keeps what is written, every other
byte and every register stay; there is no byte outside the window (20_memory.md sections 1 and 3; the fault's name is the
model's, log 11). -/
def Obligations.HostReadsBackWhatItWrote : Prop :=
  ∀ (s : State) (a : Nat) (b : Byte), s.status.busy = false →
    (a < s.cfg.memBytes →
      ∃ t u : State, s.hostMove (.memWrite a b) = .next t ∧ t = { s with mem := t.mem } ∧
        (∀ x, t.mem.read x = if x = a then b else s.mem.read x) ∧ t.hostMove (.memRead a) = .next u ∧
        u = { t with port := u.port, draws := u.draws } ∧ u.port.queue = t.port.queue ∧
        u.port.reads = b.setWidth 64 :: t.port.reads) ∧
    (s.cfg.memBytes ≤ a →
      s.hostMove (.memWrite a b) = .fault .hostOutsideWindow ∧ s.hostMove (.memRead a) = .fault .hostOutsideWindow)

/-- R310 as item I9 has it: while a command runs, a host access to a byte of its read or write ranges has no move in the
model, and any other byte of the window can be read and written. The fault's name is the model's (log 7), and so are the ranges
of a pending PARSE that will not end OK (log 8). -/
def Obligations.HostKeepsAwayFromARunningCommand : Prop :=
  ∀ (s : State) (i : Instr) (a : Nat) (b : Byte), s.status.busy = true → decodeCommand s.cmd = .ok i →
    a < s.cfg.memBytes →
    ((∃ r ∈ s.readRanges i ++ s.writeRanges i, r.start ≤ a ∧ a < r.start + r.len) →
      s.hostMove (.memRead a) = .fault .hostTouchesRunningRange ∧
      s.hostMove (.memWrite a b) = .fault .hostTouchesRunningRange) ∧
    ((∀ r ∈ s.readRanges i ++ s.writeRanges i, ¬(r.start ≤ a ∧ a < r.start + r.len)) →
      s.hostMove (.memWrite a b) = .next { s with mem := s.mem.write a b } ∧
      ∃ t : State, s.hostMove (.memRead a) = .next t ∧ t.mem = s.mem ∧
        t.port.reads = (s.mem.read a).setWidth 64 :: s.port.reads)

/-- R300 to R302: each of the two reset events, the reset and the power-on, sets every register to its reset value and discards
the pending command. After a reset the memory keeps every byte outside the abandoned command's write ranges, and all of it
when no command was pending; after a power-on its bytes are any value, and nothing is stated of them. That the host's queue,
its answers and the schedule outlive the event is the model's choice (logs 4, 5), and so are the write ranges of a pending
PARSE that will not end OK (log 8), cut at the end of the window (log 9). -/
def Obligations.ResetEventClearsTheBlock : Prop :=
  ∀ s : State,
    (∃ t : State, s.hostMove .reset = .next t ∧
      t = { State.powerOn s.cfg t.mem with port := s.port, turns := s.turns, draws := t.draws } ∧ t.pending = none ∧
      (s.status.busy = false → t.mem = s.mem) ∧
      (∀ a, (∀ i, decodeCommand s.cmd = .ok i → ∀ r ∈ s.writeRanges i, ¬(r.start ≤ a ∧ a < r.start + r.len)) →
        t.mem.read a = s.mem.read a)) ∧
    ∃ t : State, s.hostMove .powerOn = .next t ∧
      t = { State.powerOn s.cfg t.mem with port := s.port, turns := s.turns, draws := t.draws } ∧ t.pending = none

/-- Only the engine's completion or a reset ends a pending command: a host move that leaves `BUSY` = 0 was a reset or a
power-on (70_reset_and_hazards.md section 1). -/
def Obligations.OnlyCompletionOrResetEndsACommand : Prop :=
  ∀ s t : State, s.status.busy = true → step s = .next t → t.status.busy = false →
    s.mover = some .engine ∨ s.port.queue.head? = some .reset ∨ s.port.queue.head? = some .powerOn

/-- Weak fairness in the model (40_command_issue.md section 2; the schedule is the model's, log 5): within one step more than
the schedule is long, a pending command has ended or the run has stopped on a host move. -/
def Obligations.PendingCommandEnds : Prop :=
  ∀ s : State, s.status.busy = true → ∃ k, k ≤ s.turns.length + 1 ∧
    ((∃ t, Sys2Proof.core.run k s = .next t ∧ t.status.busy = false) ∨ (∃ r, Sys2Proof.core.run k s = .fault r) ∨
      ∃ r, Sys2Proof.core.run k s = .refused r)
end

