-- ==== Sys2Proof/Laws/Mask.lean ====
section
/-! SUPPORT. The masking laws: the scalar reference byte by byte, and the pipeline, whose result is the reference's on every
path. -/

namespace Sys2Proof.Machine

@[simp] theorem maskRef_nil (k : BitVec 32) (p : Nat) : maskRef [] k p = [] := rfl

@[simp] theorem maskRef_cons (b : Byte) (bs : List Byte) (k : BitVec 32) (p : Nat) :
    maskRef (b :: bs) k p = (b ^^^ keyByte k p) :: maskRef bs k (p + 1) := rfl

@[simp] theorem maskRef_length (bs : List Byte) (k : BitVec 32) (p : Nat) : (maskRef bs k p).length = bs.length := by
  induction bs generalizing p with
  | nil => rfl
  | cons b bs ih => simp [ih]

theorem maskRef_append (xs ys : List Byte) (k : BitVec 32) (p : Nat) :
    maskRef (xs ++ ys) k p = maskRef xs k p ++ maskRef ys k (p + xs.length) := by
  induction xs generalizing p with
  | nil => simp
  | cons x xs ih => simp [ih, Nat.add_comm 1 xs.length, Nat.add_assoc]

/-- The key bytes repeat with period four. -/
theorem keyByte_congr (k : BitVec 32) {i j : Nat} (h : i % 4 = j % 4) : keyByte k i = keyByte k j := by
  simp [keyByte, h]

theorem maskRef_congr_phase (bs : List Byte) (k : BitVec 32) {p q : Nat} (h : p % 4 = q % 4) :
    maskRef bs k p = maskRef bs k q := by
  induction bs generalizing p q with
  | nil => rfl
  | cons b bs ih => simp [keyByte_congr k h, ih (show (p + 1) % 4 = (q + 1) % 4 by omega)]

/-- One vector XORed with consecutive key bytes is the reference on it. -/
theorem zipWith_keyBytes (bs : List Byte) (k : BitVec 32) (r : Nat) :
    xorLanes bs ((List.range bs.length).map fun b => keyByte k (r + b)) = maskRef bs k r := by
  induction bs generalizing r with
  | nil => rfl
  | cons b bs ih =>
    have := ih (r + 1)
    simp only [xorLanes] at this ⊢
    rw [List.length_cons, List.range_succ_eq_map]
    simp only [List.map_cons, List.map_map, List.zipWith_cons_cons, maskRef_cons, Nat.add_zero]
    rw [← this]
    congr 2
    apply List.map_congr_left
    intro x _
    simp only [Function.comp_apply]
    congr 1
    omega

/-- The bulk vectors of R144 with one vector key give the reference's bytes, since W is a multiple of four. -/
theorem xorVectors_eq_maskRef (w : Nat) (k : BitVec 32) (r q : Nat) (bs : List Byte) (hw : 4 ∣ w)
    (hlen : q * w ≤ bs.length) : xorVectors w (vectorKey w k r) q bs = maskRef (bs.take (q * w)) k r := by
  induction q generalizing bs with
  | zero => simp [xorVectors]
  | succ q ih =>
    have hmul : (q + 1) * w = w + q * w := by ring
    have h1 : w ≤ bs.length := by omega
    have h2 : q * w ≤ (bs.drop w).length := by simp; omega
    simp only [xorVectors]
    have hv : xorLanes (bs.take w) (vectorKey w k r) = maskRef (bs.take w) k r := by
      have := zipWith_keyBytes (bs.take w) k r
      rwa [List.length_take, Nat.min_eq_left h1] at this
    rw [hv, ih _ h2, hmul, List.take_add, maskRef_append, List.length_take, Nat.min_eq_left h1]
    congr 1
    apply maskRef_congr_phase
    obtain ⟨c, rfl⟩ := hw
    omega

theorem laneBytes_dvd (sel : BitVec 2) : 4 ∣ laneBytes sel := by
  unfold laneBytes; split_ifs <;> decide

theorem bulk_le (w a n : Nat) : headLen w a n + bulkVectors w a n * w ≤ n := by
  have h1 : headLen w a n ≤ n := Nat.min_le_left _ _
  have h2 : bulkVectors w a n * w ≤ n - headLen w a n := Nat.div_mul_le_self _ _
  omega

/-- On every path the pipeline computes the scalar reference (R141, R145). -/
@[simp] theorem State.maskSlice_eq (s : State) (k : BitVec 32) (p a : Nat) (bs : List Byte) :
    s.maskSlice k p a bs = maskRef bs k p := by
  have hle := bulk_le (laneBytes s.sel) a bs.length
  simp only [State.maskSlice, State.pipeline, State.formVKey, Option.getD_some]
  generalize hw : laneBytes s.sel = w at hle ⊢
  generalize hh : headLen w a bs.length = h at hle ⊢
  generalize hq : bulkVectors w a bs.length = q at hle ⊢
  have hb : xorVectors w (vectorKey w k ((p + h) % 4)) q (bs.drop h) =
      maskRef ((bs.drop h).take (q * w)) k (p + h) := by
    rw [xorVectors_eq_maskRef w k _ q _ (hw ▸ laneBytes_dvd s.sel) (by simp; omega)]
    exact maskRef_congr_phase _ _ (by omega)
  rw [hb]
  have e1 : bs = bs.take h ++ ((bs.drop h).take (q * w) ++ bs.drop (h + q * w)) := by
    rw [← List.drop_drop, List.take_append_drop, List.take_append_drop]
  conv_rhs => rw [e1, maskRef_append, maskRef_append]
  have l1 : (bs.take h).length = h := by simp; omega
  have l2 : ((bs.drop h).take (q * w)).length = q * w := by simp; omega
  rw [l1, l2, List.append_assoc]

/-- The zero key leaves the bytes as they are (R148). -/
@[simp] theorem maskRef_zero_key (bs : List Byte) (p : Nat) : maskRef bs 0#32 p = bs := by
  induction bs generalizing p with
  | nil => rfl
  | cons b bs ih => simp [ih, keyByte]

/-- The masking inside PARSE and SER. -/
@[simp] theorem State.maskPayload_eq (s : State) (masked : Bool) (k : BitVec 32) (a : Nat) (bs : List Byte) :
    s.maskPayload masked k a bs = if masked then maskRef bs k 0 else bs := by
  cases masked <;> simp [State.maskPayload]

/-- Masking twice with one key and phase restores the bytes. -/
theorem maskRef_maskRef (bs : List Byte) (k : BitVec 32) (p : Nat) : maskRef (maskRef bs k p) k p = bs := by
  induction bs generalizing p with
  | nil => rfl
  | cons b bs ih => simp [ih]

end Sys2Proof.Machine
end

