-- ==== Sys2Proof/Laws/Exec.lean ====
section
/-! SUPPORT. What each meaning can answer, said once: the provers take these cases instead of unfolding `exec`. -/

namespace Sys2Proof.Machine

open Sys2Proof.Safety

/-! ## The ends of a command, in the statements' terms -/

theorem State.finish_eq_endOk (s : State) : s.finish = endOk s := rfl

theorem State.needMore_eq_endNeedMore (s : State) (n : Nat) : s.needMore n = endNeedMore s n := rfl

theorem State.raise_eq_endError (s : State) (src : ErrorSource) (e : CmdError) :
    s.raise src e = endError s e.kind.code (closeHint src e.kind) e.info0 e.info1 := rfl

theorem State.parseRaise_eq_endParseError (s : State) (src : ErrorSource) (e : CmdError) :
    s.parseRaise src e = endParseError s e.kind.code (closeHint src e.kind) e.info0 e.info1 := rfl

/-! ## Frames -/

theorem frameOpcode_frameByte0 (f a b c : Bool) (op : BitVec 4) : frameOpcode (frameByte0 f a b c op) = op := by
  revert f a b c op
  decide

/-- A frame instruction is the codec on its byte 0. -/
theorem exec_of_frameByte0 {i : Instr} {b : Byte} (h : encode i = .frameByte0 b) (s : State) :
    exec i s = .next (s.codecFrame b) := by
  cases i <;> cases h <;> rfl

/-- The opcode of a frame instruction's byte 0 is one R89 defines. -/
theorem isKnown_of_frameByte0 {i : Instr} {b : Byte} (h : encode i = .frameByte0 b) : isKnown (frameOpcode b) := by
  cases i <;> cases h <;> rw [frameOpcode_frameByte0] <;> unfold isKnown isControl <;> decide

/-! ## MASK and SER -/

theorem execMask_in (s : State) (p : Nat) (h : s.inRange s.aSrc.toNat s.aLen.toNat = true) :
    execMask p s =
      .next
        { s with
          mem := s.mem.writeBytes s.aSrc.toNat (maskRef s.slice s.key p)
          maskPhase := BitVec.ofNat 2 (p + s.aLen.toNat) }.finish := by
  simp [execMask, h]

theorem execMask_out (s : State) (p : Nat) (h : s.inRange s.aSrc.toNat s.aLen.toNat = false) :
    execMask p s = .next (s.raise .outbound (boundsFault s.aSrc.toNat s.aLen.toNat)) := by
  simp [execMask, h]

/-- SER ends in an error of its checks, of a range, or emits the frame. -/
theorem execSer_cases (s : State) (m : Bool) :
    (∃ e, (checkTxHeader s.ctrl s.txHdr s.aLen.toNat).or (checkTxRole s.ctrl m) = some e ∧
      execSer m s = .next (s.raise .outbound e)) ∨
    ((checkTxHeader s.ctrl s.txHdr s.aLen.toNat).or (checkTxRole s.ctrl m) = none ∧
      ((s.inRange s.aSrc.toNat s.aLen.toNat = false ∧
          execSer m s = .next (s.raise .outbound (boundsFault s.aSrc.toNat s.aLen.toNat))) ∨
        (s.inRange s.aSrc.toNat s.aLen.toNat = true ∧
          s.inRange s.aDst.toNat (txHeaderLen m s.aLen.toNat + s.aLen.toNat) = false ∧
          execSer m s =
            .next (s.raise .outbound (boundsFault s.aDst.toNat (txHeaderLen m s.aLen.toNat + s.aLen.toNat)))) ∨
        (s.inRange s.aSrc.toNat s.aLen.toNat = true ∧
          s.inRange s.aDst.toNat (txHeaderLen m s.aLen.toNat + s.aLen.toNat) = true ∧
          execSer m s =
            .next
              { s with
                mem :=
                  s.mem.writeBytes s.aDst.toNat
                    (txHeaderBytes s.txHdr m s.key s.aLen.toNat ++ (if m then maskRef s.slice s.key 0 else s.slice))
                txOutLen := BitVec.ofNat 64 (txHeaderLen m s.aLen.toNat + s.aLen.toNat) }.finish))) := by
  cases hc : (checkTxHeader s.ctrl s.txHdr s.aLen.toNat).or (checkTxRole s.ctrl m) with
  | some e => exact .inl ⟨e, rfl, by simp only [execSer, hc]⟩
  | none =>
    refine .inr ⟨rfl, ?_⟩
    cases h1 : s.inRange s.aSrc.toNat s.aLen.toNat
    · exact .inl ⟨rfl, by simp [execSer, hc, h1]⟩
    · cases h2 : s.inRange s.aDst.toNat (txHeaderLen m s.aLen.toNat + s.aLen.toNat)
      · exact .inr (.inl ⟨rfl, rfl, by simp [execSer, hc, h1, h2]⟩)
      · exact .inr (.inr ⟨rfl, rfl, by simp [execSer, hc, h1, h2]⟩)

/-! ## PARSE -/

/-- The header stage gives the buffer's byte 0. -/
theorem parseHeader_b0 {c : Ctrl} {mf : Word} {buf : List Byte} {h : FrameHeader}
    (hp : parseHeader c mf buf = .ok h) : ∃ b1 rest, buf = h.b0 :: b1 :: rest ∧ h.b1 = b1 ∧
      h.len = wireLength (len7 b1) rest ∧ h.hdrLen + h.len ≤ buf.length ∧ 
      extBytes (len7 b1) ≤ rest.length ∧
      checkByte0 c h.b0 = none ∧ checkRole c b1 = none ∧ checkLengthForm c (len7 b1) h.len = none ∧
      checkLength mf (frameOpcode h.b0) h.len = none ∧
      h.key = if maskBit b1 then keyOfBytes ((rest.drop (extBytes (len7 b1))).take 4) else 0#32 := by
  match buf, hp with
  | b0 :: b1 :: rest, hp =>
    unfold parseHeader at hp
    cases h1 : (checkByte0 c b0).or (checkRole c b1) with
    | some e => simp [h1] at hp
    | none =>
      simp only [h1] at hp
      split at hp
      · cases hp
      · next hx =>
        cases h2 : (checkLengthForm c (len7 b1) (wireLength (len7 b1) rest)).or
            (checkLength mf (frameOpcode b0) (wireLength (len7 b1) rest)) with
        | some e => simp [h2] at hp
        | none =>
          simp only [h2] at hp
          split at hp
          · cases hp
          · next hy =>
            split at hp
            · cases hp
            · next hz =>
              cases hp
              simp only [Option.or_eq_none_iff] at h1 h2
              refine ⟨b1, rest, rfl, rfl, rfl, ?_, Nat.le_of_not_lt hx, h1.1, h1.2, h2.1, h2.2, rfl⟩
              simp only [FrameHeader.hdrLen, List.length_cons] at *
              omega

/-- Every way a PARSE of buffered bytes ends. -/
theorem State.parseBuffer_cases (s : State) (z : Bool) (buf : List Byte) :
    (∃ n, s.inRange s.aSrc.toNat s.aLen.toNat = true ∧ parseHeader s.ctrl s.maxFrame buf = .error (.needMore n) ∧
      s.parseBuffer z buf = s.needMore n) ∨
    (∃ e, s.parseBuffer z buf = s.parseRaise (parseSource buf) e ∧
      (parseHeader s.ctrl s.maxFrame buf = .error (.error e) ∨ e.kind = .boundsFault ∨
        e.kind = .protocolViolation ∨ e.kind = .invalidUtf8)) ∨
    (∃ h c m addr, s.inRange s.aSrc.toNat s.aLen.toNat = true ∧ parseHeader s.ctrl s.maxFrame buf = .ok h ∧
      rxCloseOf (frameOpcode h.b0)
        (if maskBit h.b1 then maskRef ((buf.drop h.hdrLen).take h.len) h.key 0 else (buf.drop h.hdrLen).take h.len) =
          .ok c ∧
      s.parseBuffer z buf = { s with mem := m }.parseDone h addr c ∧
      ((z = true ∧ maskBit h.b1 = false ∧ m = s.mem) ∨
        (z = true ∧ maskBit h.b1 = true ∧
          m = s.mem.writeBytes (s.aSrc.toNat + h.hdrLen) (maskRef ((buf.drop h.hdrLen).take h.len) h.key 0)) ∨
        (z = false ∧ s.inRange s.aDst.toNat h.len = true ∧
          m = s.mem.writeBytes s.aDst.toNat
            (if maskBit h.b1 then maskRef ((buf.drop h.hdrLen).take h.len) h.key 0
              else (buf.drop h.hdrLen).take h.len))) ∧
      addr = if z then s.aSrc + BitVec.ofNat 64 h.hdrLen else s.aDst) := by
  unfold State.parseBuffer
  cases hr : s.inRange s.aSrc.toNat s.aLen.toNat with
  | false =>
    refine .inr (.inl ⟨boundsFault s.aSrc.toNat s.aLen.toNat, ?_, .inr (.inl rfl)⟩)
    cases buf <;> simp [State.parseRaise, State.raise, parseSource, closeHint, boundsFault, ErrorKind.inboundHint]
  | true =>
    simp only [if_true]
    cases hp : parseHeader s.ctrl s.maxFrame buf with
    | error e =>
      cases e with
      | needMore n => exact .inl ⟨n, trivial, rfl, rfl⟩
      | error e => exact .inr (.inl ⟨e, rfl, .inl rfl⟩)
    | ok h =>
      right
      obtain ⟨b1, rest, hb, -⟩ := parseHeader_b0 hp
      have hsrc : parseSource buf = .parsedFrame (frameOpcode h.b0) := by rw [hb]; rfl
      simp only [State.parsePayload, State.maskPayload_eq]
      generalize hpl : (if maskBit h.b1 = true then maskRef ((buf.drop h.hdrLen).take h.len) h.key 0
        else (buf.drop h.hdrLen).take h.len) = pl
      cases hc : rxCloseOf (frameOpcode h.b0) pl with
      | error e =>
        refine .inl ⟨e, by rw [hsrc], .inr (.inr ?_)⟩
        unfold rxCloseOf closeDecode at hc
        repeat' split at hc
        all_goals first | (cases hc; first | exact .inl rfl | exact .inr rfl) | cases hc
      | ok c =>
        simp only [State.placePayload]
        cases z with
        | true =>
          refine .inr ⟨h, c, if maskBit h.b1 then s.mem.writeBytes (s.aSrc.toNat + h.hdrLen) pl else s.mem, _, trivial, rfl,
            hpl ▸ hc, rfl, ?_, rfl⟩
          cases hm : maskBit h.b1
          · exact .inl ⟨rfl, rfl, rfl⟩
          · refine .inr (.inl ⟨rfl, rfl, ?_⟩)
            rw [← hpl, hm]
            rfl
        | false =>
          cases hd : s.inRange s.aDst.toNat h.len with
          | false => exact .inl ⟨boundsFault s.aDst.toNat h.len, by rw [hsrc]; rfl, .inr (.inl rfl)⟩
          | true => exact .inr ⟨h, c, _, _, trivial, rfl, hpl ▸ hc, rfl, .inr (.inr ⟨rfl, hd, by rw [hpl]⟩), rfl⟩

/-- Every instruction ends in a next state. -/
theorem exec_next (i : Instr) (s : State) : ∃ t, exec i s = .next t := by
  cases i with
  | mask p => simp only [exec, execMask]; split <;> exact ⟨_, rfl⟩
  | parse z => exact ⟨_, rfl⟩
  | ser m =>
    rcases execSer_cases s m with ⟨e, -, h⟩ | ⟨-, ⟨-, h⟩ | ⟨-, -, h⟩ | ⟨-, -, h⟩⟩ <;> exact ⟨_, h⟩
  | u8rst => exact ⟨_, rfl⟩
  | u8feed =>
    simp only [exec, execU8feed]
    repeat' split
    all_goals exact ⟨_, rfl⟩
  | u8fin => simp only [exec, execU8fin]; split <;> exact ⟨_, rfl⟩
  | frameContinuation f a b c => exact ⟨_, rfl⟩
  | frameText f a b c => exact ⟨_, rfl⟩
  | frameBinary f a b c => exact ⟨_, rfl⟩
  | frameClose f a b c => exact ⟨_, rfl⟩
  | framePing f a b c => exact ⟨_, rfl⟩
  | framePong f a b c => exact ⟨_, rfl⟩

end Sys2Proof.Machine
end

