-- ==== Sys2Proof/Laws/Memory.lean ====
section
/-! SUPPORT. The laws of memory: read after write, and the canonical form that every memory operation keeps. -/

namespace Sys2Proof.Machine

/-! ## One byte -/

/-- What is listed after a write: the written byte at its address, and every other entry as before. -/
theorem Memory.find_write (m : Memory) (a x : Nat) (b : Byte) :
    (m.write a b).find x = if x = a then some b else m.find x := by
  induction m with
  | nil => simp [Memory.write, Memory.find, eq_comm]
  | cons c t ih =>
    obtain ⟨y, d⟩ := c
    simp only [Memory.write]
    by_cases h1 : y < a
    · by_cases h2 : y = x
      · subst h2; simp [Memory.find, h1, Nat.ne_of_lt h1]
      · simp [Memory.find, h1, h2, ih]
    · by_cases h2 : y = a
      · by_cases h3 : x = a
        · simp [Memory.find, h2, h3]
        · simp [Memory.find, h2, h3, Ne.symm h3]
      · by_cases h3 : x = a
        · simp [Memory.find, h1, h2, h3]
        · simp [Memory.find, h1, h2, h3, Ne.symm h3]

@[simp] theorem Memory.read_nil (a : Nat) : Memory.read [] a = Memory.background a := rfl

theorem Memory.read_write (m : Memory) (a x : Nat) (b : Byte) :
    (m.write a b).read x = if x = a then b else m.read x := by
  unfold Memory.read
  rw [Memory.find_write]
  split <;> rfl

/-- A byte reads as what was written to it. -/
@[simp] theorem Memory.read_write_same (m : Memory) (a : Nat) (b : Byte) : (m.write a b).read a = b := by
  rw [Memory.read_write, if_pos rfl]

/-- A write leaves every other byte alone. -/
theorem Memory.read_write_other (m : Memory) {a x : Nat} (b : Byte) (h : x ≠ a) : (m.write a b).read x = m.read x := by
  rw [Memory.read_write, if_neg h]

/-! ## Byte lists -/

@[simp] theorem Memory.readBytes_length (m : Memory) (a n : Nat) : (m.readBytes a n).length = n := by
  induction n generalizing a with
  | zero => rfl
  | succ n ih => simp [Memory.readBytes, ih]

theorem Memory.readBytes_getElem? (m : Memory) (a n i : Nat) (h : i < n) :
    (m.readBytes a n)[i]? = some (m.read (a + i)) := by
  induction n generalizing a i with
  | zero => omega
  | succ n ih =>
    cases i with
    | zero => simp [Memory.readBytes]
    | succ i =>
      have := ih (a + 1) i (by omega)
      simpa [Memory.readBytes, Nat.add_assoc, Nat.add_comm 1 i] using this

theorem Memory.readBytes_congr {m m' : Memory} {a n : Nat} (h : ∀ x, a ≤ x → x < a + n → m.read x = m'.read x) :
    m.readBytes a n = m'.readBytes a n := by
  induction n generalizing a with
  | zero => rfl
  | succ n ih =>
    simp only [Memory.readBytes]
    rw [h a (by omega) (by omega), ih (fun x h1 h2 => h x (by omega) (by omega))]

theorem Memory.readBytes_add (m : Memory) (a n k : Nat) :
    m.readBytes a (n + k) = m.readBytes a n ++ m.readBytes (a + n) k := by
  induction n generalizing a with
  | zero => simp [Memory.readBytes]
  | succ n ih =>
    rw [Nat.add_right_comm]
    simp [Memory.readBytes, ih, Nat.add_assoc, Nat.add_comm 1 n]

/-- What every byte reads as after a list of bytes is written. -/
theorem Memory.read_writeBytes (m : Memory) (a x : Nat) (bs : List Byte) :
    (m.writeBytes a bs).read x =
      if a ≤ x ∧ x < a + bs.length then bs.getD (x - a) 0#8 else m.read x := by
  induction bs generalizing m a with
  | nil => simp [Memory.writeBytes]
  | cons b bs ih =>
    simp only [Memory.writeBytes, ih, Memory.read_write, List.length_cons]
    by_cases h1 : a + 1 ≤ x ∧ x < a + 1 + bs.length
    · have h2 : a ≤ x ∧ x < a + (bs.length + 1) := by omega
      obtain ⟨k, hk⟩ : ∃ k, x - a = k + 1 := ⟨x - a - 1, by omega⟩
      have hk' : x - (a + 1) = k := by omega
      simp [h1, h2, hk, hk']
    · by_cases hx : x = a
      · subst hx; simp
      · have h2 : ¬(a ≤ x ∧ x < a + (bs.length + 1)) := by omega
        rw [if_neg h1, if_neg h2, if_neg hx]

/-- Bytes outside the written ones read as before. -/
theorem Memory.read_writeBytes_outside (m : Memory) {a x : Nat} (bs : List Byte) (h : x < a ∨ a + bs.length ≤ x) :
    (m.writeBytes a bs).read x = m.read x := by
  rw [Memory.read_writeBytes, if_neg (by omega)]

/-- A written byte list reads back. -/
theorem Memory.readBytes_writeBytes (m : Memory) (a : Nat) (bs : List Byte) :
    (m.writeBytes a bs).readBytes a bs.length = bs := by
  apply List.ext_getElem?
  intro i
  by_cases h : i < bs.length
  · rw [Memory.readBytes_getElem? _ _ _ _ h, Memory.read_writeBytes, if_pos (by omega)]
    simp [h]
  · rw [List.getElem?_eq_none (by simp; omega), List.getElem?_eq_none (by omega)]

/-- Reading back a part of a written byte list. -/
theorem Memory.readBytes_writeBytes_part (m : Memory) (a i n : Nat) (bs : List Byte) (h : i + n ≤ bs.length) :
    (m.writeBytes a bs).readBytes (a + i) n = (bs.drop i).take n := by
  apply List.ext_getElem?
  intro j
  by_cases hj : j < n
  · rw [Memory.readBytes_getElem? _ _ _ _ hj, Memory.read_writeBytes, if_pos (by omega)]
    have e : a + i + j - a = i + j := by omega
    have e2 : i + j < bs.length := by omega
    simp [e, e2, hj]
  · rw [List.getElem?_eq_none (by simp; omega), List.getElem?_eq_none (by simp; omega)]

/-! ## The canonical form -/

@[simp] theorem Memory.wf_cons (a : Nat) (b : Byte) (t : Memory) :
    Memory.wf ((a, b) :: t) = true ↔ (∀ c ∈ t, a < c.1) ∧ Memory.wf t = true := by
  simp [Memory.wf]

/-- The cells of a written memory are its old cells and the written one. -/
theorem Memory.mem_write {m : Memory} {a : Nat} {b : Byte} {c : Host.Cell} (h : c ∈ m.write a b) :
    c ∈ m ∨ c.1 = a := by
  induction m with
  | nil => simp_all [Memory.write]
  | cons d t ih =>
    obtain ⟨x, e⟩ := d
    simp only [Memory.write] at h
    split at h
    · rcases List.mem_cons.1 h with h | h
      · exact .inl (h ▸ List.mem_cons_self)
      · exact (ih h).imp_left (List.mem_cons_of_mem _)
    · split at h <;> rcases List.mem_cons.1 h with h | h
      · exact .inr (h ▸ rfl)
      · exact .inl (List.mem_cons_of_mem _ h)
      · exact .inr (h ▸ rfl)
      · exact .inl h

/-- A write keeps the canonical form. -/
theorem Memory.wf_write {m : Memory} (a : Nat) (b : Byte) (h : m.wf = true) : (m.write a b).wf = true := by
  induction m with
  | nil => rfl
  | cons d t ih =>
    obtain ⟨x, e⟩ := d
    rw [Memory.wf_cons] at h
    simp only [Memory.write]
    split
    · next hx =>
      rw [Memory.wf_cons]
      refine ⟨fun c hc => ?_, ih h.2⟩
      rcases Memory.mem_write hc with hc | hc
      · exact h.1 c hc
      · omega
    · split
      · next hx => exact (Memory.wf_cons _ _ _).2 ⟨hx ▸ h.1, h.2⟩
      · next hlt hne =>
        refine (Memory.wf_cons _ _ _).2 ⟨fun c hc => ?_, (Memory.wf_cons _ _ _).2 h⟩
        rcases List.mem_cons.1 hc with rfl | hc
        · omega
        · have := h.1 c hc
          omega

/-- Writing a byte list keeps the canonical form. -/
theorem Memory.wf_writeBytes {m : Memory} (a : Nat) (bs : List Byte) (h : m.wf = true) :
    (m.writeBytes a bs).wf = true := by
  induction bs generalizing m a with
  | nil => exact h
  | cons b bs ih => exact ih (a + 1) (Memory.wf_write a b h)

/-- The cells of a memory after a byte list is written are its old cells and cells of the written range. -/
theorem Memory.mem_writeBytes {m : Memory} {a : Nat} {bs : List Byte} {c : Host.Cell} (h : c ∈ m.writeBytes a bs) :
    c ∈ m ∨ (a ≤ c.1 ∧ c.1 < a + bs.length) := by
  induction bs generalizing m a with
  | nil => exact .inl h
  | cons b bs ih =>
    rcases ih h with h | h
    · rcases Memory.mem_write h with h | h
      · exact .inl h
      · right; simp only [List.length_cons]; omega
    · right; simp only [List.length_cons]; omega

/-- An address below every listed one is unlisted. -/
theorem Memory.find_eq_none {m : Memory} {a : Nat} (h : ∀ c ∈ m, a < c.1) : m.find a = none := by
  induction m with
  | nil => rfl
  | cons d t ih =>
    have h1 : d.1 ≠ a := Nat.ne_of_gt (h d List.mem_cons_self)
    simpa [Memory.find, h1] using ih fun c hc => h c (List.mem_cons_of_mem _ hc)

/-- Two canonical memories that list the same byte everywhere are the same list. -/
theorem Memory.eq_of_find_eq {m m' : Memory} (h : m.wf = true) (h' : m'.wf = true) (hr : ∀ x, m.find x = m'.find x) :
    m = m' := by
  induction m generalizing m' with
  | nil =>
    cases m' with
    | nil => rfl
    | cons d t =>
      have := hr d.1
      simp [Memory.find] at this
  | cons d t ih =>
    obtain ⟨x, b⟩ := d
    obtain ⟨hlt, hw⟩ := (Memory.wf_cons x b t).1 h
    cases m' with
    | nil =>
      have := hr x
      simp [Memory.find] at this
    | cons d' t' =>
      obtain ⟨y, e⟩ := d'
      obtain ⟨hlt', hw'⟩ := (Memory.wf_cons y e t').1 h'
      have below : ∀ {z w : Nat} {g : Byte} {u : Memory}, z < w → (∀ q ∈ u, w < q.1) → Memory.find ((w, g) :: u) z = none :=
        fun hz hu => Memory.find_eq_none fun q hq => by
          rcases List.mem_cons.1 hq with rfl | hq
          · exact hz
          · exact Nat.lt_trans hz (hu q hq)
      have hxy : x = y := by
        rcases Nat.lt_trichotomy x y with h1 | h1 | h1
        · have h2 := hr x
          rw [below h1 hlt'] at h2
          simp [Memory.find] at h2
        · exact h1
        · have h2 := hr y
          rw [below h1 hlt] at h2
          simp [Memory.find] at h2
      subst hxy
      have hbe : b = e := by simpa [Memory.find] using hr x
      subst hbe
      congr 1
      refine ih hw hw' fun a => ?_
      by_cases hax : x = a
      · subst hax
        rw [Memory.find_eq_none hlt, Memory.find_eq_none hlt']
      · simpa [Memory.find, hax] using hr a

end Sys2Proof.Machine
end

