-- ==== Sys2Proof/Laws/Host.lean ====
section
/-! SUPPORT. What the free bytes of a reset or a power-on can change, the write ranges of a PARSE whose slice is in range,
and what a register of the map reads. -/

namespace Sys2Proof.Machine

/-- Free bytes change no byte outside the addresses they are drawn for. -/
theorem Memory.read_fillFree_outside (draw a n : Nat) (m : Memory) {x : Nat} (h : x < a ∨ a + n ≤ x) :
    (Memory.fillFree draw a n m).read x = m.read x := by
  induction n generalizing a m with
  | zero => rfl
  | succ n ih =>
    simp only [Memory.fillFree]
    rw [ih _ _ (by omega), Memory.read_write_other _ _ (by omega)]

/-- Free bytes keep the canonical form, and are listed only inside the window when their addresses are. -/
theorem Memory.wf_fillFree (draw a n limit : Nat) {m : Memory} (hm : m.wf = true ∧ ∀ c ∈ m, c.1 < limit)
    (h : n = 0 ∨ a + n ≤ limit) :
    (Memory.fillFree draw a n m).wf = true ∧ ∀ c ∈ Memory.fillFree draw a n m, c.1 < limit := by
  induction n generalizing a m with
  | zero => exact hm
  | succ n ih =>
    refine ih (a + 1) ⟨Memory.wf_write _ _ hm.1, fun c hc => ?_⟩ (by omega)
    rcases Memory.mem_write hc with hc | hc
    · exact hm.2 c hc
    · omega

/-- A reset leaves every byte outside the write ranges of the command it abandons, and all of them when none was pending. -/
theorem State.read_memAfterReset (s : State) {x : Nat}
    (h : s.status.busy = true → ∀ r ∈ s.runningWrites, ¬(r.start ≤ x ∧ x < r.start + r.len)) :
    s.memAfterReset.read x = s.mem.read x := by
  have fold : ∀ (rs : List Range) (m : Memory), (∀ r ∈ rs, ¬(r.start ≤ x ∧ x < r.start + r.len)) →
      (rs.foldl (Memory.fillRange s.draws s.cfg.memBytes) m).read x = m.read x := by
    intro rs
    induction rs with
    | nil => exact fun _ _ => rfl
    | cons r rs ih =>
      intro m hr
      have hout := hr r List.mem_cons_self
      rw [List.foldl_cons, ih _ fun q hq => hr q (List.mem_cons_of_mem _ hq)]
      exact Memory.read_fillFree_outside _ _ _ _ (by omega)
  unfold State.memAfterReset
  split
  · next hb => exact fold _ _ (h hb)
  · rfl

/-- A reset keeps the memory canonical and inside the window. -/
theorem State.wf_memAfterReset (s : State) (h : s.mem.wf = true ∧ ∀ c ∈ s.mem, c.1 < s.cfg.memBytes) :
    s.memAfterReset.wf = true ∧ ∀ c ∈ s.memAfterReset, c.1 < s.cfg.memBytes := by
  have fold : ∀ (rs : List Range) (m : Memory), (m.wf = true ∧ ∀ c ∈ m, c.1 < s.cfg.memBytes) →
      (rs.foldl (Memory.fillRange s.draws s.cfg.memBytes) m).wf = true ∧
        ∀ c ∈ rs.foldl (Memory.fillRange s.draws s.cfg.memBytes) m, c.1 < s.cfg.memBytes := by
    intro rs
    induction rs with
    | nil => exact fun _ hm => hm
    | cons r rs ih => exact fun m hm => ih _ (Memory.wf_fillFree _ _ _ _ hm (by omega))
  unfold State.memAfterReset
  split
  · exact fold _ _ h
  · exact h

/-- Every byte of a slice in range exists. -/
theorem State.presentSlice_of_inRange (s : State) (h : s.inRange s.aSrc.toNat s.aLen.toNat = true) :
    s.presentSlice = s.slice := by
  have hlen : s.slice.length = s.aLen.toNat := Memory.readBytes_length _ _ _
  simp only [State.inRange, Bool.or_eq_true, decide_eq_true_eq] at h
  exact List.take_of_length_le (by omega)

/-- The register map has each register at its own offset. -/
@[simp] theorem regAt_offset (r : Reg) : regAt r.offset = some r := by cases r <;> decide

/-- No register stands at or above the reserved offsets (R43). -/
theorem regAt_eq_none {off : Nat} (h : 0x0C8 ≤ off) : regAt off = none := by
  simp only [regAt, List.find?_eq_none, beq_iff_eq]
  intro r _
  cases r <;> simp only [Reg.offset] <;> omega

/-- What a register of the map reads: its value, or a free one for a result register while `BUSY` = 1. -/
theorem State.regRead_offset (s : State) (r : Reg) :
    s.regRead r.offset = if s.status.busy && r.isResult then s.busyAnswer r else s.regValue r := by
  rw [State.regRead, regAt_offset]

/-- Offsets from 0x0C8 on read 0 (R43). -/
theorem State.regRead_reserved (s : State) {off : Nat} (h : 0x0C8 ≤ off) : s.regRead off = 0#64 := by
  rw [State.regRead, regAt_eq_none h]

end Sys2Proof.Machine
end

