-- ==== Sys2Proof/Laws/Parse.lean ====
section
/-! SUPPORT. The parser's header stage and its payload stage, in the statements' terms: the provers cite these instead of
unfolding the parser. -/

namespace Sys2Proof.Machine

open Sys2Proof.Safety

theorem extBytes_byte1 (s : State) : extBytes (len7 (byte1 s)) = ext s := rfl

theorem headerLen_byte1 (s : State) : headerLen (len7 (byte1 s)) (maskBit (byte1 s)) = hdrLen s := rfl

theorem ext_cases (s : State) : ext s = 0 ∨ ext s = 2 ∨ ext s = 8 := by unfold ext; split_ifs <;> simp

theorem Memory.readBytes_take (m : Memory) {a n k : Nat} (h : k ≤ n) : (m.readBytes a n).take k = m.readBytes a k := by
  obtain ⟨d, rfl⟩ := Nat.exists_eq_add_of_le h
  rw [Memory.readBytes_add]; simp

theorem Memory.readBytes_drop (m : Memory) {a n k : Nat} (h : k ≤ n) :
    (m.readBytes a n).drop k = m.readBytes (a + k) (n - k) := by
  obtain ⟨d, rfl⟩ := Nat.exists_eq_add_of_le h
  rw [Memory.readBytes_add]; simp

/-- Two big-endian bytes as the sum the statements write. -/
theorem wire_sum_two (f : Nat → Byte) :
    beNat [f 0, f 1] = ((List.range 2).map fun j => (f j).toNat * 256 ^ (2 - 1 - j)).sum := by
  simp [beNat, List.range_succ]

/-- Eight big-endian bytes as the sum the statements write. -/
theorem wire_sum_eight (f : Nat → Byte) :
    beNat [f 0, f 1, f 2, f 3, f 4, f 5, f 6, f 7] =
      ((List.range 8).map fun j => (f j).toNat * 256 ^ (8 - 1 - j)).sum := by
  simp only [beNat, List.foldl, List.range_succ, List.range_zero, List.nil_append, List.map_append, List.map_cons,
    List.map_nil, List.sum_append, List.sum_cons, List.sum_nil]
  generalize (f 0).toNat = x0
  generalize (f 1).toNat = x1
  generalize (f 2).toNat = x2
  generalize (f 3).toNat = x3
  generalize (f 4).toNat = x4
  generalize (f 5).toNat = x5
  generalize (f 6).toNat = x6
  generalize (f 7).toNat = x7
  norm_num
  ring

/-- The length the parser reads is the statements' `frameLen`. -/
theorem wireLength_eq_frameLen (s : State) {n : Nat} (h : ext s ≤ n) :
    wireLength (len7 (byte1 s)) (s.mem.readBytes (s.aSrc.toNat + 2) n) = frameLen s := by
  unfold wireLength frameLen
  rw [extBytes_byte1]
  rcases ext_cases s with e | e | e <;> rw [e] at h ⊢
  · simp [len7]
  · rw [Memory.readBytes_take _ h]
    exact wire_sum_two fun j => s.mem.read (s.aSrc.toNat + 2 + j)
  · rw [Memory.readBytes_take _ h]
    exact wire_sum_eight fun j => s.mem.read (s.aSrc.toNat + 2 + j)

/-- The key the parser reads is the statements' `frameKey` on a masked frame. -/
theorem keyOfBytes_eq_frameKey (s : State) {n : Nat} (hm : masked s = true) (h : ext s + 4 ≤ n) :
    keyOfBytes (((s.mem.readBytes (s.aSrc.toNat + 2) n).drop (ext s)).take 4) = frameKey s := by
  rw [Memory.readBytes_drop _ (by omega), Memory.readBytes_take _ (by omega)]
  have e1 : s.aSrc.toNat + 2 + ext s + 1 = s.aSrc.toNat + 3 + ext s := by omega
  have e2 : s.aSrc.toNat + 3 + ext s + 1 = s.aSrc.toNat + 4 + ext s := by omega
  have e3 : s.aSrc.toNat + 4 + ext s + 1 = s.aSrc.toNat + 5 + ext s := by omega
  simp only [Memory.readBytes, keyOfBytes, beNat, List.foldl, e1, e2, e3, frameKey, hm, if_true]
  generalize s.mem.read _ = a
  generalize s.mem.read _ = b
  generalize s.mem.read _ = c
  generalize s.mem.read _ = d
  apply BitVec.eq_of_toNat_eq
  simp only [BitVec.toNat_ofNat, BitVec.toNat_append]
  have := a.isLt
  have := b.isLt
  have := c.isLt
  have := d.isLt
  rw [← Nat.shiftLeft_add_eq_or_of_lt d.isLt, ← Nat.shiftLeft_add_eq_or_of_lt c.isLt,
    ← Nat.shiftLeft_add_eq_or_of_lt b.isLt]
  simp only [Nat.shiftLeft_eq]
  omega

theorem slice_two (s : State) (h : 2 ≤ s.aLen.toNat) :
    s.slice = byte0 s :: byte1 s :: s.mem.readBytes (s.aSrc.toNat + 2) (s.aLen.toNat - 2) := by
  unfold State.slice byte0 byte1
  obtain ⟨n, hn⟩ := Nat.exists_eq_add_of_le h
  rw [hn, Nat.add_comm 2 n]
  rfl

theorem withByte0_slice (s : State) (b0 : Byte) (h : 2 ≤ s.aLen.toNat) :
    withByte0 b0 s.slice = b0 :: byte1 s :: s.mem.readBytes (s.aSrc.toNat + 2) (s.aLen.toNat - 2) := by
  rw [slice_two s h]
  rfl

/-! ## The checks, and when they pass -/

theorem unclaimedRsv_eq (c : Ctrl) (b0 : Byte) :
    unclaimedRsv c b0 = b0 &&& 0x70#8 &&& ~~~ (c.toWord.extractLsb' 0 8 &&& 0x70#8) := by
  obtain ⟨a, b, d, e, f, g⟩ := c
  simp only [unclaimedRsv, Ctrl.claimed, Ctrl.toWord]
  congr 1
  revert a b d e f g
  decide

theorem reservedFrameOpcode_iff (op : BitVec 4) : reservedFrameOpcode op = false ↔ isKnown op := by
  unfold isKnown isControl
  revert op
  decide

theorem controlFrameOpcode_iff (op : BitVec 4) : controlFrameOpcode op = true ↔ isControl op := by
  unfold isControl
  revert op
  decide

theorem checkByte0_eq_none (c : Ctrl) (b0 : Byte) : checkByte0 c b0 = none ↔ byte0Accepted c b0 := by
  unfold checkByte0 byte0Accepted
  rw [← reservedFrameOpcode_iff, ← controlFrameOpcode_iff, ← unclaimedRsv_eq]
  change _ ↔ reservedFrameOpcode (frameOpcode b0) = false ∧
    (controlFrameOpcode (frameOpcode b0) = true → finBit b0 = true) ∧ unclaimedRsv c b0 = 0#8
  generalize reservedFrameOpcode (frameOpcode b0) = r
  generalize controlFrameOpcode (frameOpcode b0) = k
  generalize finBit b0 = f
  by_cases h : unclaimedRsv c b0 = 0#8 <;> cases r <;> cases k <;> cases f <;> simp [h]

theorem checkRole_eq_none (c : Ctrl) (b1 : Byte) : checkRole c b1 = none ↔ roleAccepted c (maskBit b1) := by
  unfold checkRole roleAccepted
  cases c.server <;> cases maskBit b1 <;> cases c.acceptUnmasked <;> simp

theorem checkLengthForm_eq_none (s : State) :
    checkLengthForm s.ctrl (len7 (byte1 s)) (frameLen s) = none ↔ lengthFormAccepted s := by
  unfold checkLengthForm lengthFormAccepted minimalForm
  rw [extBytes_byte1]
  rcases ext_cases s with e | e | e <;> cases s.ctrl.strictLen <;> simp [e]
  split_ifs <;> simp_all

theorem checkLength_eq_none (s : State) (op : BitVec 4) :
    checkLength s.maxFrame op (frameLen s) = none ↔ lengthAccepted s op := by
  unfold checkLength lengthAccepted
  by_cases h : isControl op
  · simp only [(controlFrameOpcode_iff op).2 h, h, true_and, true_implies]
    by_cases h1 : 125 < frameLen s <;> by_cases h2 : s.maxFrame.toNat < frameLen s <;> simp [h1, h2] <;> omega
  · have h' : controlFrameOpcode op = false := Bool.not_eq_true _ ▸ fun e => h ((controlFrameOpcode_iff op).1 e)
    by_cases h2 : s.maxFrame.toNat < frameLen s <;> simp [h', h, h2] <;> omega

/-! ## The header stage -/

/-- The header stage on a buffer of at least two bytes whose byte 0 is `b0`. -/
theorem parseHeader_eq (s : State) (b0 : Byte) (h2 : 2 ≤ s.aLen.toNat) :
    parseHeader s.ctrl s.maxFrame (b0 :: byte1 s :: s.mem.readBytes (s.aSrc.toNat + 2) (s.aLen.toNat - 2)) =
      match (checkByte0 s.ctrl b0).or (checkRole s.ctrl (byte1 s)) with
      | some e => .error (.error e)
      | none =>
        if s.aLen.toNat < 2 + ext s then .error (.needMore (hdrLen s - s.aLen.toNat))
        else
          match (checkLengthForm s.ctrl (len7 (byte1 s)) (frameLen s)).or
              (checkLength s.maxFrame (frameOpcode b0) (frameLen s)) with
          | some e => .error (.error e)
          | none =>
            if s.aLen.toNat < hdrLen s then .error (.needMore (hdrLen s - s.aLen.toNat))
            else if s.aLen.toNat < hdrLen s + frameLen s then
              .error (.needMore (hdrLen s + frameLen s - s.aLen.toNat))
            else .ok { b0 := b0, b1 := byte1 s, len := frameLen s, key := frameKey s } := by
  have e1 : s.aLen.toNat - 2 + 2 = s.aLen.toNat := by omega
  simp only [parseHeader, Memory.readBytes_length, extBytes_byte1, headerLen_byte1, e1]
  cases (checkByte0 s.ctrl b0).or (checkRole s.ctrl (byte1 s)) with
  | some e => rfl
  | none =>
    by_cases hx : s.aLen.toNat < 2 + ext s
    · simp only [if_pos hx, if_pos (show s.aLen.toNat - 2 < ext s by omega)]
    · simp only [if_neg hx, if_neg (show ¬ s.aLen.toNat - 2 < ext s by omega),
        wireLength_eq_frameLen s (show ext s ≤ s.aLen.toNat - 2 by omega)]
      cases (checkLengthForm s.ctrl (len7 (byte1 s)) (frameLen s)).or
          (checkLength s.maxFrame (frameOpcode b0) (frameLen s)) with
      | some e => rfl
      | none =>
        by_cases hh : s.aLen.toNat < hdrLen s
        · simp only [if_pos hh]
        · by_cases hp : s.aLen.toNat < hdrLen s + frameLen s
          · simp only [if_neg hh, if_pos hp, if_pos (show s.aLen.toNat - hdrLen s < frameLen s by omega)]
          · simp only [if_neg hh, if_neg hp, if_neg (show ¬ s.aLen.toNat - hdrLen s < frameLen s by omega)]
            by_cases hm : masked s = true
            · have hl : hdrLen s = 2 + ext s + 4 := by simp [hdrLen, hm]
              rw [if_pos (show maskBit (byte1 s) = true from hm), keyOfBytes_eq_frameKey s hm (by omega)]
            · rw [if_neg (show ¬ maskBit (byte1 s) = true from hm)]
              simp [frameKey, hm]

theorem two_le_of_frameAccepted {s : State} {b0 : Byte} (h : frameAccepted s b0) : 2 ≤ s.aLen.toNat := by
  obtain ⟨_, _, _, _, _, h⟩ := h
  unfold hdrLen at h
  omega

/-! ## The payload stage -/

/-- PARSE on a whole frame whose header passes every check: the Close decode, the destination's range, then the results. -/
theorem State.parseBuffer_of_frameAccepted (s : State) (b0 : Byte) (z : Bool) (ha : frameAccepted s b0) :
    s.parseBuffer z (b0 :: byte1 s :: s.mem.readBytes (s.aSrc.toNat + 2) (s.aLen.toNat - 2)) =
      match rxCloseOf (frameOpcode b0) (plainPayload s) with
      | .error e => s.parseRaise (.parsedFrame (frameOpcode b0)) e
      | .ok c =>
        if z = false ∧ s.inRange s.aDst.toNat (frameLen s) = false then
          s.parseRaise (.parsedFrame (frameOpcode b0)) (boundsFault s.aDst.toNat (frameLen s))
        else parsedState s z b0 c := by
  have h2 := two_le_of_frameAccepted ha
  obtain ⟨hr, hb, hro, hlf, hl, hav⟩ := ha
  have hlen : 2 + ext s ≤ hdrLen s := by unfold hdrLen; omega
  have hc := (checkLength_eq_none s (frameOpcode b0)).2 hl
  unfold State.parseBuffer
  rw [if_pos hr, parseHeader_eq s _ h2, (checkByte0_eq_none _ _).2 hb, (checkRole_eq_none _ _).2 hro,
    (checkLengthForm_eq_none s).2 hlf, hc]
  simp only [Option.or_none, if_neg (show ¬ s.aLen.toNat < 2 + ext s by omega),
    if_neg (show ¬ s.aLen.toNat < hdrLen s by omega), if_neg (show ¬ s.aLen.toNat < hdrLen s + frameLen s by omega)]
  simp only [State.parsePayload, FrameHeader.hdrLen, headerLen_byte1]
  have hp : s.maskPayload (maskBit (byte1 s)) (frameKey s) (s.aSrc.toNat + hdrLen s)
      (List.take (frameLen s) (List.drop (hdrLen s)
        (b0 :: byte1 s :: s.mem.readBytes (s.aSrc.toNat + 2) (s.aLen.toNat - 2)))) = plainPayload s := by
    obtain ⟨k, hk⟩ : ∃ k, hdrLen s = k + 2 := ⟨hdrLen s - 2, by omega⟩
    have hbytes : List.take (frameLen s) (List.drop (hdrLen s)
        (b0 :: byte1 s :: s.mem.readBytes (s.aSrc.toNat + 2) (s.aLen.toNat - 2))) =
        s.mem.readBytes (s.aSrc.toNat + hdrLen s) (frameLen s) := by
      rw [hk]
      simp only [List.drop_succ_cons]
      rw [Memory.readBytes_drop _ (by omega), Memory.readBytes_take _ (by omega)]
      congr 1
      omega
    rw [State.maskPayload_eq, hbytes]
    unfold plainPayload
    by_cases hm : masked s = true
    · rw [if_pos (show maskBit (byte1 s) = true from hm)]
    · rw [if_neg (show ¬ maskBit (byte1 s) = true from hm), show frameKey s = 0#32 by simp [frameKey, hm],
        maskRef_zero_key]
  rw [hp]
  cases rxCloseOf (frameOpcode b0) (plainPayload s) with
  | error e => rfl
  | ok c =>
    simp only [State.placePayload, FrameHeader.hdrLen, headerLen_byte1]
    have haddr : s.aSrc + BitVec.ofNat 64 (hdrLen s) = BitVec.ofNat 64 (s.aSrc.toNat + hdrLen s) := by
      apply BitVec.eq_of_toNat_eq
      simp
    cases z
    · cases hd : s.inRange s.aDst.toNat (frameLen s) <;> simp [parsedState] <;> rfl
    · simp only [if_true, haddr, Bool.true_eq_false, false_and, if_false]
      rfl

end Sys2Proof.Machine
end

