-- ==== Sys2Proof/Laws/PerInstr.lean ====
section
/-! SUPPORT. Facts about each instruction as syntax, one lemma per constructor. -/

/-- The mask of an instruction's row in the opcode table (30_encoding.md R82, R89). -/
def Sys2Proof.Laws.MatchesRow.tableMask : Sys2Proof.Instr → Sys2Proof.Encoded
  | .mask _ => .command 0xFFFFFFFFFFFFFCFF#64
  | .parse _ => .command 0xFFFFFFFFFFFFFEFF#64
  | .ser _ => .command 0xFFFFFFFFFFFFFEFF#64
  | .u8rst => .command 0xFFFFFFFFFFFFFFFF#64
  | .u8feed => .command 0xFFFFFFFFFFFFFFFF#64
  | .u8fin => .command 0xFFFFFFFFFFFFFFFF#64
  | .frameContinuation _ _ _ _ => .frameByte0 0x0F#8
  | .frameText _ _ _ _ => .frameByte0 0x0F#8
  | .frameBinary _ _ _ _ => .frameByte0 0x0F#8
  | .frameClose _ _ _ _ => .frameByte0 0x0F#8
  | .framePing _ _ _ _ => .frameByte0 0x0F#8
  | .framePong _ _ _ _ => .frameByte0 0x0F#8

/-- The match of an instruction's row. -/
def Sys2Proof.Laws.MatchesRow.tableMatch : Sys2Proof.Instr → Sys2Proof.Encoded
  | .mask _ => .command 0x01#64
  | .parse _ => .command 0x10#64
  | .ser _ => .command 0x11#64
  | .u8rst => .command 0x20#64
  | .u8feed => .command 0x21#64
  | .u8fin => .command 0x22#64
  | .frameContinuation _ _ _ _ => .frameByte0 0x00#8
  | .frameText _ _ _ _ => .frameByte0 0x01#8
  | .frameBinary _ _ _ _ => .frameByte0 0x02#8
  | .frameClose _ _ _ _ => .frameByte0 0x08#8
  | .framePing _ _ _ _ => .frameByte0 0x09#8
  | .framePong _ _ _ _ => .frameByte0 0x0A#8

/-- An encoding agrees with a match under a mask of the same kind. -/
def Sys2Proof.Laws.MatchesRow.agrees : Sys2Proof.Encoded → Sys2Proof.Encoded → Sys2Proof.Encoded → Prop
  | .command w, .command mask, .command m => w &&& mask = m
  | .frameByte0 b, .frameByte0 mask, .frameByte0 m => b &&& mask = m
  | _, _, _ => False

/-- The encoding of an instruction agrees with its row of the opcode table, whatever its operands are. -/
def Sys2Proof.Laws.MatchesRow.Statement (i : Sys2Proof.Instr) : Prop :=
  Sys2Proof.Laws.MatchesRow.agrees (Sys2Proof.encode i) (Sys2Proof.Laws.MatchesRow.tableMask i)
    (Sys2Proof.Laws.MatchesRow.tableMatch i)

open Sys2Proof

/-- The two bits of MASK's phase lie outside its row's mask. -/
theorem Sys2Proof.Laws.MatchesRow.phase_bits (x : BitVec 2) :
    commandWord (0#6 ++ x) 0x01#8 &&& 0xFFFFFFFFFFFFFCFF#64 = 0x01#64 := by
  revert x
  decide

theorem Sys2Proof.Laws.MatchesRow.mask (phase : Nat) : Sys2Proof.Laws.MatchesRow.Statement (.mask phase) :=
  Sys2Proof.Laws.MatchesRow.phase_bits (BitVec.ofNat 2 phase)

theorem Sys2Proof.Laws.MatchesRow.parse (z : Bool) : Sys2Proof.Laws.MatchesRow.Statement (.parse z) := by
  cases z <;> rfl

theorem Sys2Proof.Laws.MatchesRow.ser (m : Bool) : Sys2Proof.Laws.MatchesRow.Statement (.ser m) := by
  cases m <;> rfl

theorem Sys2Proof.Laws.MatchesRow.u8rst : Sys2Proof.Laws.MatchesRow.Statement .u8rst := rfl

theorem Sys2Proof.Laws.MatchesRow.u8feed : Sys2Proof.Laws.MatchesRow.Statement .u8feed := rfl

theorem Sys2Proof.Laws.MatchesRow.u8fin : Sys2Proof.Laws.MatchesRow.Statement .u8fin := rfl

theorem Sys2Proof.Laws.MatchesRow.frameContinuation (f a b c : Bool) :
    Sys2Proof.Laws.MatchesRow.Statement (.frameContinuation f a b c) := by
  cases f <;> cases a <;> cases b <;> cases c <;> rfl

theorem Sys2Proof.Laws.MatchesRow.frameText (f a b c : Bool) :
    Sys2Proof.Laws.MatchesRow.Statement (.frameText f a b c) := by
  cases f <;> cases a <;> cases b <;> cases c <;> rfl

theorem Sys2Proof.Laws.MatchesRow.frameBinary (f a b c : Bool) :
    Sys2Proof.Laws.MatchesRow.Statement (.frameBinary f a b c) := by
  cases f <;> cases a <;> cases b <;> cases c <;> rfl

theorem Sys2Proof.Laws.MatchesRow.frameClose (f a b c : Bool) :
    Sys2Proof.Laws.MatchesRow.Statement (.frameClose f a b c) := by
  cases f <;> cases a <;> cases b <;> cases c <;> rfl

theorem Sys2Proof.Laws.MatchesRow.framePing (f a b c : Bool) :
    Sys2Proof.Laws.MatchesRow.Statement (.framePing f a b c) := by
  cases f <;> cases a <;> cases b <;> cases c <;> rfl

theorem Sys2Proof.Laws.MatchesRow.framePong (f a b c : Bool) :
    Sys2Proof.Laws.MatchesRow.Statement (.framePong f a b c) := by
  cases f <;> cases a <;> cases b <;> cases c <;> rfl
end

