-- ==== Sys2Proof/Laws/Serialize.lean ====
section
/-! SUPPORT. The serializer's checks and its header bytes, in the statements' terms. -/

namespace Sys2Proof.Machine

open Sys2Proof.Safety

theorem checkTxHeader_eq_none (c : Ctrl) (h : Byte) (len : Nat) :
    checkTxHeader c h len = none ↔ txHeaderAccepted c h len := by
  unfold checkTxHeader txHeaderAccepted byte0Accepted
  rw [← reservedFrameOpcode_iff, ← controlFrameOpcode_iff, ← unclaimedRsv_eq]
  change _ ↔ (reservedFrameOpcode (frameOpcode h) = false ∧
    (controlFrameOpcode (frameOpcode h) = true → finBit h = true) ∧ unclaimedRsv c h = 0#8) ∧
    (controlFrameOpcode (frameOpcode h) = true → len ≤ 125) ∧ len < 2 ^ 63
  generalize reservedFrameOpcode (frameOpcode h) = r
  generalize controlFrameOpcode (frameOpcode h) = k
  generalize finBit h = f
  by_cases hu : unclaimedRsv c h = 0#8 <;> by_cases h1 : 125 < len <;> by_cases h2 : 2 ^ 63 ≤ len <;> cases r <;>
    cases k <;> cases f <;> simp [hu, h1] <;> omega

theorem checkTxRole_eq_none (c : Ctrl) (m : Bool) : checkTxRole c m = none ↔ txRoleAccepted c m := by
  unfold checkTxRole txRoleAccepted
  cases c.server <;> cases m <;> simp

/-- A short length is none of the two marks of an extended length. -/
theorem shortest_ne_mark {len : Nat} (h : len ≤ 125) :
    BitVec.ofNat 7 len ≠ 126#7 ∧ BitVec.ofNat 7 len ≠ 127#7 := by
  constructor <;> intro e <;> have := congrArg BitVec.toNat e <;> simp at this <;> omega

theorem txHeaderLen_eq (m : Bool) (len : Nat) : txHeaderLen m len = txLen m len := by
  unfold txHeaderLen headerLen txLen shortestLen7 extBytes
  by_cases h1 : len ≤ 125
  · simp [h1, shortest_ne_mark h1]
  · by_cases h2 : len ≤ 65535 <;> simp [h1, h2]

theorem keyByte_eq_wireKey (k : BitVec 32) (j : Nat) : keyByte k j = (wireKey k).getD (j % 4) 0#8 := by
  have hj : j % 4 < 4 := Nat.mod_lt _ (by omega)
  unfold keyByte wireKey
  generalize j % 4 = r at *
  match r, hj with
  | 0, _ => rfl
  | 1, _ => rfl
  | 2, _ => rfl
  | 3, _ => rfl

/-- The emitted header is the length form the statements write out, then the key. -/
theorem txHeaderBytes_eq (h : Byte) (m : Bool) (k : BitVec 32) (len : Nat) :
    txHeaderBytes h m k len = txLengthForm h m len ++ (if m then wireKey k else []) := by
  have hk : keyBytes k = wireKey k := by simp [keyBytes, wireKey, keyByte_eq_wireKey]
  unfold txHeaderBytes txLengthForm shortestLen7
  rw [hk]
  by_cases h1 : len ≤ 125
  · simp [h1, extBytes, shortest_ne_mark h1, beBytes]
  · by_cases h2 : len ≤ 65535 <;> simp [h1, h2, extBytes, beBytes]

end Sys2Proof.Machine
end

