-- ==== Sys2Proof/Laws/State.lean ====
section
/-! SUPPORT. One lemma per field per update of State, so that no later proof unfolds a record update. -/

namespace Sys2Proof.Machine

/-! ## complete -/

@[simp] theorem State.complete_cfg (s : State) (r : CmdResult) (e : Byte) (h : BitVec 16) (i j : Word) :
    (s.complete r e h i j).cfg = s.cfg := rfl
@[simp] theorem State.complete_ctrl (s : State) (r : CmdResult) (e : Byte) (h : BitVec 16) (i j : Word) :
    (s.complete r e h i j).ctrl = s.ctrl := rfl
@[simp] theorem State.complete_sel (s : State) (r : CmdResult) (e : Byte) (h : BitVec 16) (i j : Word) :
    (s.complete r e h i j).sel = s.sel := rfl
@[simp] theorem State.complete_maxFrame (s : State) (r : CmdResult) (e : Byte) (h : BitVec 16) (i j : Word) :
    (s.complete r e h i j).maxFrame = s.maxFrame := rfl
@[simp] theorem State.complete_cmd (s : State) (r : CmdResult) (e : Byte) (h : BitVec 16) (i j : Word) :
    (s.complete r e h i j).cmd = s.cmd := rfl
@[simp] theorem State.complete_status (s : State) (r : CmdResult) (e : Byte) (h : BitVec 16) (i j : Word) :
    (s.complete r e h i j).status = Status.completed s.cmd r e h := rfl
@[simp] theorem State.complete_errInfo0 (s : State) (r : CmdResult) (e : Byte) (h : BitVec 16) (i j : Word) :
    (s.complete r e h i j).errInfo0 = i := rfl
@[simp] theorem State.complete_errInfo1 (s : State) (r : CmdResult) (e : Byte) (h : BitVec 16) (i j : Word) :
    (s.complete r e h i j).errInfo1 = j := rfl
@[simp] theorem State.complete_aSrc (s : State) (r : CmdResult) (e : Byte) (h : BitVec 16) (i j : Word) :
    (s.complete r e h i j).aSrc = s.aSrc := rfl
@[simp] theorem State.complete_aDst (s : State) (r : CmdResult) (e : Byte) (h : BitVec 16) (i j : Word) :
    (s.complete r e h i j).aDst = s.aDst := rfl
@[simp] theorem State.complete_aLen (s : State) (r : CmdResult) (e : Byte) (h : BitVec 16) (i j : Word) :
    (s.complete r e h i j).aLen = s.aLen := rfl
@[simp] theorem State.complete_key (s : State) (r : CmdResult) (e : Byte) (h : BitVec 16) (i j : Word) :
    (s.complete r e h i j).key = s.key := rfl
@[simp] theorem State.complete_txHdr (s : State) (r : CmdResult) (e : Byte) (h : BitVec 16) (i j : Word) :
    (s.complete r e h i j).txHdr = s.txHdr := rfl
@[simp] theorem State.complete_txOutLen (s : State) (r : CmdResult) (e : Byte) (h : BitVec 16) (i j : Word) :
    (s.complete r e h i j).txOutLen = s.txOutLen := rfl
@[simp] theorem State.complete_maskPhase (s : State) (r : CmdResult) (e : Byte) (h : BitVec 16) (i j : Word) :
    (s.complete r e h i j).maskPhase = s.maskPhase := rfl
@[simp] theorem State.complete_rxHdr (s : State) (r : CmdResult) (e : Byte) (h : BitVec 16) (i j : Word) :
    (s.complete r e h i j).rxHdr = s.rxHdr := rfl
@[simp] theorem State.complete_rxLen (s : State) (r : CmdResult) (e : Byte) (h : BitVec 16) (i j : Word) :
    (s.complete r e h i j).rxLen = s.rxLen := rfl
@[simp] theorem State.complete_rxKey (s : State) (r : CmdResult) (e : Byte) (h : BitVec 16) (i j : Word) :
    (s.complete r e h i j).rxKey = s.rxKey := rfl
@[simp] theorem State.complete_rxPayload (s : State) (r : CmdResult) (e : Byte) (h : BitVec 16) (i j : Word) :
    (s.complete r e h i j).rxPayload = s.rxPayload := rfl
@[simp] theorem State.complete_rxConsumed (s : State) (r : CmdResult) (e : Byte) (h : BitVec 16) (i j : Word) :
    (s.complete r e h i j).rxConsumed = s.rxConsumed := rfl
@[simp] theorem State.complete_rxNeed (s : State) (r : CmdResult) (e : Byte) (h : BitVec 16) (i j : Word) :
    (s.complete r e h i j).rxNeed = s.rxNeed := rfl
@[simp] theorem State.complete_rxClose (s : State) (r : CmdResult) (e : Byte) (h : BitVec 16) (i j : Word) :
    (s.complete r e h i j).rxClose = s.rxClose := rfl
@[simp] theorem State.complete_u8State (s : State) (r : CmdResult) (e : Byte) (h : BitVec 16) (i j : Word) :
    (s.complete r e h i j).u8State = s.u8State := rfl
@[simp] theorem State.complete_u8Count (s : State) (r : CmdResult) (e : Byte) (h : BitVec 16) (i j : Word) :
    (s.complete r e h i j).u8Count = s.u8Count := rfl
@[simp] theorem State.complete_vkey (s : State) (r : CmdResult) (e : Byte) (h : BitVec 16) (i j : Word) :
    (s.complete r e h i j).vkey = none := rfl
@[simp] theorem State.complete_mem (s : State) (r : CmdResult) (e : Byte) (h : BitVec 16) (i j : Word) :
    (s.complete r e h i j).mem = s.mem := rfl
@[simp] theorem State.complete_port (s : State) (r : CmdResult) (e : Byte) (h : BitVec 16) (i j : Word) :
    (s.complete r e h i j).port = s.port := rfl
@[simp] theorem State.complete_turns (s : State) (r : CmdResult) (e : Byte) (h : BitVec 16) (i j : Word) :
    (s.complete r e h i j).turns = s.turns := rfl
@[simp] theorem State.complete_draws (s : State) (r : CmdResult) (e : Byte) (h : BitVec 16) (i j : Word) :
    (s.complete r e h i j).draws = s.draws := rfl

/-! ## finish -/

@[simp] theorem State.finish_cfg (s : State) :
    (s.finish).cfg = s.cfg := rfl
@[simp] theorem State.finish_ctrl (s : State) :
    (s.finish).ctrl = s.ctrl := rfl
@[simp] theorem State.finish_sel (s : State) :
    (s.finish).sel = s.sel := rfl
@[simp] theorem State.finish_maxFrame (s : State) :
    (s.finish).maxFrame = s.maxFrame := rfl
@[simp] theorem State.finish_cmd (s : State) :
    (s.finish).cmd = s.cmd := rfl
@[simp] theorem State.finish_status (s : State) :
    (s.finish).status = Status.completed s.cmd .ok 0#8 0#16 := rfl
@[simp] theorem State.finish_errInfo0 (s : State) :
    (s.finish).errInfo0 = 0#64 := rfl
@[simp] theorem State.finish_errInfo1 (s : State) :
    (s.finish).errInfo1 = 0#64 := rfl
@[simp] theorem State.finish_aSrc (s : State) :
    (s.finish).aSrc = s.aSrc := rfl
@[simp] theorem State.finish_aDst (s : State) :
    (s.finish).aDst = s.aDst := rfl
@[simp] theorem State.finish_aLen (s : State) :
    (s.finish).aLen = s.aLen := rfl
@[simp] theorem State.finish_key (s : State) :
    (s.finish).key = s.key := rfl
@[simp] theorem State.finish_txHdr (s : State) :
    (s.finish).txHdr = s.txHdr := rfl
@[simp] theorem State.finish_txOutLen (s : State) :
    (s.finish).txOutLen = s.txOutLen := rfl
@[simp] theorem State.finish_maskPhase (s : State) :
    (s.finish).maskPhase = s.maskPhase := rfl
@[simp] theorem State.finish_rxHdr (s : State) :
    (s.finish).rxHdr = s.rxHdr := rfl
@[simp] theorem State.finish_rxLen (s : State) :
    (s.finish).rxLen = s.rxLen := rfl
@[simp] theorem State.finish_rxKey (s : State) :
    (s.finish).rxKey = s.rxKey := rfl
@[simp] theorem State.finish_rxPayload (s : State) :
    (s.finish).rxPayload = s.rxPayload := rfl
@[simp] theorem State.finish_rxConsumed (s : State) :
    (s.finish).rxConsumed = s.rxConsumed := rfl
@[simp] theorem State.finish_rxNeed (s : State) :
    (s.finish).rxNeed = s.rxNeed := rfl
@[simp] theorem State.finish_rxClose (s : State) :
    (s.finish).rxClose = s.rxClose := rfl
@[simp] theorem State.finish_u8State (s : State) :
    (s.finish).u8State = s.u8State := rfl
@[simp] theorem State.finish_u8Count (s : State) :
    (s.finish).u8Count = s.u8Count := rfl
@[simp] theorem State.finish_vkey (s : State) :
    (s.finish).vkey = none := rfl
@[simp] theorem State.finish_mem (s : State) :
    (s.finish).mem = s.mem := rfl
@[simp] theorem State.finish_port (s : State) :
    (s.finish).port = s.port := rfl
@[simp] theorem State.finish_turns (s : State) :
    (s.finish).turns = s.turns := rfl
@[simp] theorem State.finish_draws (s : State) :
    (s.finish).draws = s.draws := rfl

/-! ## needMore -/

@[simp] theorem State.needMore_cfg (s : State) (n : Nat) :
    (s.needMore n).cfg = s.cfg := rfl
@[simp] theorem State.needMore_ctrl (s : State) (n : Nat) :
    (s.needMore n).ctrl = s.ctrl := rfl
@[simp] theorem State.needMore_sel (s : State) (n : Nat) :
    (s.needMore n).sel = s.sel := rfl
@[simp] theorem State.needMore_maxFrame (s : State) (n : Nat) :
    (s.needMore n).maxFrame = s.maxFrame := rfl
@[simp] theorem State.needMore_cmd (s : State) (n : Nat) :
    (s.needMore n).cmd = s.cmd := rfl
@[simp] theorem State.needMore_status (s : State) (n : Nat) :
    (s.needMore n).status = Status.completed s.cmd .needMore 0#8 0#16 := rfl
@[simp] theorem State.needMore_errInfo0 (s : State) (n : Nat) :
    (s.needMore n).errInfo0 = 0#64 := rfl
@[simp] theorem State.needMore_errInfo1 (s : State) (n : Nat) :
    (s.needMore n).errInfo1 = 0#64 := rfl
@[simp] theorem State.needMore_aSrc (s : State) (n : Nat) :
    (s.needMore n).aSrc = s.aSrc := rfl
@[simp] theorem State.needMore_aDst (s : State) (n : Nat) :
    (s.needMore n).aDst = s.aDst := rfl
@[simp] theorem State.needMore_aLen (s : State) (n : Nat) :
    (s.needMore n).aLen = s.aLen := rfl
@[simp] theorem State.needMore_key (s : State) (n : Nat) :
    (s.needMore n).key = s.key := rfl
@[simp] theorem State.needMore_txHdr (s : State) (n : Nat) :
    (s.needMore n).txHdr = s.txHdr := rfl
@[simp] theorem State.needMore_txOutLen (s : State) (n : Nat) :
    (s.needMore n).txOutLen = s.txOutLen := rfl
@[simp] theorem State.needMore_maskPhase (s : State) (n : Nat) :
    (s.needMore n).maskPhase = s.maskPhase := rfl
@[simp] theorem State.needMore_rxHdr (s : State) (n : Nat) :
    (s.needMore n).rxHdr = s.rxHdr := rfl
@[simp] theorem State.needMore_rxLen (s : State) (n : Nat) :
    (s.needMore n).rxLen = s.rxLen := rfl
@[simp] theorem State.needMore_rxKey (s : State) (n : Nat) :
    (s.needMore n).rxKey = s.rxKey := rfl
@[simp] theorem State.needMore_rxPayload (s : State) (n : Nat) :
    (s.needMore n).rxPayload = s.rxPayload := rfl
@[simp] theorem State.needMore_rxConsumed (s : State) (n : Nat) :
    (s.needMore n).rxConsumed = s.rxConsumed := rfl
@[simp] theorem State.needMore_rxNeed (s : State) (n : Nat) :
    (s.needMore n).rxNeed = BitVec.ofNat 64 n := rfl
@[simp] theorem State.needMore_rxClose (s : State) (n : Nat) :
    (s.needMore n).rxClose = s.rxClose := rfl
@[simp] theorem State.needMore_u8State (s : State) (n : Nat) :
    (s.needMore n).u8State = s.u8State := rfl
@[simp] theorem State.needMore_u8Count (s : State) (n : Nat) :
    (s.needMore n).u8Count = s.u8Count := rfl
@[simp] theorem State.needMore_vkey (s : State) (n : Nat) :
    (s.needMore n).vkey = none := rfl
@[simp] theorem State.needMore_mem (s : State) (n : Nat) :
    (s.needMore n).mem = s.mem := rfl
@[simp] theorem State.needMore_port (s : State) (n : Nat) :
    (s.needMore n).port = s.port := rfl
@[simp] theorem State.needMore_turns (s : State) (n : Nat) :
    (s.needMore n).turns = s.turns := rfl
@[simp] theorem State.needMore_draws (s : State) (n : Nat) :
    (s.needMore n).draws = s.draws := rfl

/-! ## raise -/

@[simp] theorem State.raise_cfg (s : State) (src : ErrorSource) (e : CmdError) :
    (s.raise src e).cfg = s.cfg := rfl
@[simp] theorem State.raise_ctrl (s : State) (src : ErrorSource) (e : CmdError) :
    (s.raise src e).ctrl = s.ctrl := rfl
@[simp] theorem State.raise_sel (s : State) (src : ErrorSource) (e : CmdError) :
    (s.raise src e).sel = s.sel := rfl
@[simp] theorem State.raise_maxFrame (s : State) (src : ErrorSource) (e : CmdError) :
    (s.raise src e).maxFrame = s.maxFrame := rfl
@[simp] theorem State.raise_cmd (s : State) (src : ErrorSource) (e : CmdError) :
    (s.raise src e).cmd = s.cmd := rfl
@[simp] theorem State.raise_status (s : State) (src : ErrorSource) (e : CmdError) :
    (s.raise src e).status = Status.completed s.cmd .error e.kind.code (closeHint src e.kind) := rfl
@[simp] theorem State.raise_errInfo0 (s : State) (src : ErrorSource) (e : CmdError) :
    (s.raise src e).errInfo0 = e.info0 := rfl
@[simp] theorem State.raise_errInfo1 (s : State) (src : ErrorSource) (e : CmdError) :
    (s.raise src e).errInfo1 = e.info1 := rfl
@[simp] theorem State.raise_aSrc (s : State) (src : ErrorSource) (e : CmdError) :
    (s.raise src e).aSrc = s.aSrc := rfl
@[simp] theorem State.raise_aDst (s : State) (src : ErrorSource) (e : CmdError) :
    (s.raise src e).aDst = s.aDst := rfl
@[simp] theorem State.raise_aLen (s : State) (src : ErrorSource) (e : CmdError) :
    (s.raise src e).aLen = s.aLen := rfl
@[simp] theorem State.raise_key (s : State) (src : ErrorSource) (e : CmdError) :
    (s.raise src e).key = s.key := rfl
@[simp] theorem State.raise_txHdr (s : State) (src : ErrorSource) (e : CmdError) :
    (s.raise src e).txHdr = s.txHdr := rfl
@[simp] theorem State.raise_txOutLen (s : State) (src : ErrorSource) (e : CmdError) :
    (s.raise src e).txOutLen = s.txOutLen := rfl
@[simp] theorem State.raise_maskPhase (s : State) (src : ErrorSource) (e : CmdError) :
    (s.raise src e).maskPhase = s.maskPhase := rfl
@[simp] theorem State.raise_rxHdr (s : State) (src : ErrorSource) (e : CmdError) :
    (s.raise src e).rxHdr = s.rxHdr := rfl
@[simp] theorem State.raise_rxLen (s : State) (src : ErrorSource) (e : CmdError) :
    (s.raise src e).rxLen = s.rxLen := rfl
@[simp] theorem State.raise_rxKey (s : State) (src : ErrorSource) (e : CmdError) :
    (s.raise src e).rxKey = s.rxKey := rfl
@[simp] theorem State.raise_rxPayload (s : State) (src : ErrorSource) (e : CmdError) :
    (s.raise src e).rxPayload = s.rxPayload := rfl
@[simp] theorem State.raise_rxConsumed (s : State) (src : ErrorSource) (e : CmdError) :
    (s.raise src e).rxConsumed = s.rxConsumed := rfl
@[simp] theorem State.raise_rxNeed (s : State) (src : ErrorSource) (e : CmdError) :
    (s.raise src e).rxNeed = s.rxNeed := rfl
@[simp] theorem State.raise_rxClose (s : State) (src : ErrorSource) (e : CmdError) :
    (s.raise src e).rxClose = s.rxClose := rfl
@[simp] theorem State.raise_u8State (s : State) (src : ErrorSource) (e : CmdError) :
    (s.raise src e).u8State = s.u8State := rfl
@[simp] theorem State.raise_u8Count (s : State) (src : ErrorSource) (e : CmdError) :
    (s.raise src e).u8Count = s.u8Count := rfl
@[simp] theorem State.raise_vkey (s : State) (src : ErrorSource) (e : CmdError) :
    (s.raise src e).vkey = none := rfl
@[simp] theorem State.raise_mem (s : State) (src : ErrorSource) (e : CmdError) :
    (s.raise src e).mem = s.mem := rfl
@[simp] theorem State.raise_port (s : State) (src : ErrorSource) (e : CmdError) :
    (s.raise src e).port = s.port := rfl
@[simp] theorem State.raise_turns (s : State) (src : ErrorSource) (e : CmdError) :
    (s.raise src e).turns = s.turns := rfl
@[simp] theorem State.raise_draws (s : State) (src : ErrorSource) (e : CmdError) :
    (s.raise src e).draws = s.draws := rfl

/-! ## parseRaise -/

@[simp] theorem State.parseRaise_cfg (s : State) (src : ErrorSource) (e : CmdError) :
    (s.parseRaise src e).cfg = s.cfg := rfl
@[simp] theorem State.parseRaise_ctrl (s : State) (src : ErrorSource) (e : CmdError) :
    (s.parseRaise src e).ctrl = s.ctrl := rfl
@[simp] theorem State.parseRaise_sel (s : State) (src : ErrorSource) (e : CmdError) :
    (s.parseRaise src e).sel = s.sel := rfl
@[simp] theorem State.parseRaise_maxFrame (s : State) (src : ErrorSource) (e : CmdError) :
    (s.parseRaise src e).maxFrame = s.maxFrame := rfl
@[simp] theorem State.parseRaise_cmd (s : State) (src : ErrorSource) (e : CmdError) :
    (s.parseRaise src e).cmd = s.cmd := rfl
@[simp] theorem State.parseRaise_status (s : State) (src : ErrorSource) (e : CmdError) :
    (s.parseRaise src e).status = Status.completed s.cmd .error e.kind.code (closeHint src e.kind) := rfl
@[simp] theorem State.parseRaise_errInfo0 (s : State) (src : ErrorSource) (e : CmdError) :
    (s.parseRaise src e).errInfo0 = e.info0 := rfl
@[simp] theorem State.parseRaise_errInfo1 (s : State) (src : ErrorSource) (e : CmdError) :
    (s.parseRaise src e).errInfo1 = e.info1 := rfl
@[simp] theorem State.parseRaise_aSrc (s : State) (src : ErrorSource) (e : CmdError) :
    (s.parseRaise src e).aSrc = s.aSrc := rfl
@[simp] theorem State.parseRaise_aDst (s : State) (src : ErrorSource) (e : CmdError) :
    (s.parseRaise src e).aDst = s.aDst := rfl
@[simp] theorem State.parseRaise_aLen (s : State) (src : ErrorSource) (e : CmdError) :
    (s.parseRaise src e).aLen = s.aLen := rfl
@[simp] theorem State.parseRaise_key (s : State) (src : ErrorSource) (e : CmdError) :
    (s.parseRaise src e).key = s.key := rfl
@[simp] theorem State.parseRaise_txHdr (s : State) (src : ErrorSource) (e : CmdError) :
    (s.parseRaise src e).txHdr = s.txHdr := rfl
@[simp] theorem State.parseRaise_txOutLen (s : State) (src : ErrorSource) (e : CmdError) :
    (s.parseRaise src e).txOutLen = s.txOutLen := rfl
@[simp] theorem State.parseRaise_maskPhase (s : State) (src : ErrorSource) (e : CmdError) :
    (s.parseRaise src e).maskPhase = s.maskPhase := rfl
@[simp] theorem State.parseRaise_rxHdr (s : State) (src : ErrorSource) (e : CmdError) :
    (s.parseRaise src e).rxHdr = s.rxHdr := rfl
@[simp] theorem State.parseRaise_rxLen (s : State) (src : ErrorSource) (e : CmdError) :
    (s.parseRaise src e).rxLen = s.rxLen := rfl
@[simp] theorem State.parseRaise_rxKey (s : State) (src : ErrorSource) (e : CmdError) :
    (s.parseRaise src e).rxKey = s.rxKey := rfl
@[simp] theorem State.parseRaise_rxPayload (s : State) (src : ErrorSource) (e : CmdError) :
    (s.parseRaise src e).rxPayload = s.rxPayload := rfl
@[simp] theorem State.parseRaise_rxConsumed (s : State) (src : ErrorSource) (e : CmdError) :
    (s.parseRaise src e).rxConsumed = s.rxConsumed := rfl
@[simp] theorem State.parseRaise_rxNeed (s : State) (src : ErrorSource) (e : CmdError) :
    (s.parseRaise src e).rxNeed = 0#64 := rfl
@[simp] theorem State.parseRaise_rxClose (s : State) (src : ErrorSource) (e : CmdError) :
    (s.parseRaise src e).rxClose = s.rxClose := rfl
@[simp] theorem State.parseRaise_u8State (s : State) (src : ErrorSource) (e : CmdError) :
    (s.parseRaise src e).u8State = s.u8State := rfl
@[simp] theorem State.parseRaise_u8Count (s : State) (src : ErrorSource) (e : CmdError) :
    (s.parseRaise src e).u8Count = s.u8Count := rfl
@[simp] theorem State.parseRaise_vkey (s : State) (src : ErrorSource) (e : CmdError) :
    (s.parseRaise src e).vkey = none := rfl
@[simp] theorem State.parseRaise_mem (s : State) (src : ErrorSource) (e : CmdError) :
    (s.parseRaise src e).mem = s.mem := rfl
@[simp] theorem State.parseRaise_port (s : State) (src : ErrorSource) (e : CmdError) :
    (s.parseRaise src e).port = s.port := rfl
@[simp] theorem State.parseRaise_turns (s : State) (src : ErrorSource) (e : CmdError) :
    (s.parseRaise src e).turns = s.turns := rfl
@[simp] theorem State.parseRaise_draws (s : State) (src : ErrorSource) (e : CmdError) :
    (s.parseRaise src e).draws = s.draws := rfl

/-! ## parseDone -/

@[simp] theorem State.parseDone_cfg (s : State) (h : FrameHeader) (a : Word) (c : RxClose) :
    (s.parseDone h a c).cfg = s.cfg := rfl
@[simp] theorem State.parseDone_ctrl (s : State) (h : FrameHeader) (a : Word) (c : RxClose) :
    (s.parseDone h a c).ctrl = s.ctrl := rfl
@[simp] theorem State.parseDone_sel (s : State) (h : FrameHeader) (a : Word) (c : RxClose) :
    (s.parseDone h a c).sel = s.sel := rfl
@[simp] theorem State.parseDone_maxFrame (s : State) (h : FrameHeader) (a : Word) (c : RxClose) :
    (s.parseDone h a c).maxFrame = s.maxFrame := rfl
@[simp] theorem State.parseDone_cmd (s : State) (h : FrameHeader) (a : Word) (c : RxClose) :
    (s.parseDone h a c).cmd = s.cmd := rfl
@[simp] theorem State.parseDone_status (s : State) (h : FrameHeader) (a : Word) (c : RxClose) :
    (s.parseDone h a c).status = Status.completed s.cmd .ok 0#8 0#16 := rfl
@[simp] theorem State.parseDone_errInfo0 (s : State) (h : FrameHeader) (a : Word) (c : RxClose) :
    (s.parseDone h a c).errInfo0 = 0#64 := rfl
@[simp] theorem State.parseDone_errInfo1 (s : State) (h : FrameHeader) (a : Word) (c : RxClose) :
    (s.parseDone h a c).errInfo1 = 0#64 := rfl
@[simp] theorem State.parseDone_aSrc (s : State) (h : FrameHeader) (a : Word) (c : RxClose) :
    (s.parseDone h a c).aSrc = s.aSrc := rfl
@[simp] theorem State.parseDone_aDst (s : State) (h : FrameHeader) (a : Word) (c : RxClose) :
    (s.parseDone h a c).aDst = s.aDst := rfl
@[simp] theorem State.parseDone_aLen (s : State) (h : FrameHeader) (a : Word) (c : RxClose) :
    (s.parseDone h a c).aLen = s.aLen := rfl
@[simp] theorem State.parseDone_key (s : State) (h : FrameHeader) (a : Word) (c : RxClose) :
    (s.parseDone h a c).key = s.key := rfl
@[simp] theorem State.parseDone_txHdr (s : State) (h : FrameHeader) (a : Word) (c : RxClose) :
    (s.parseDone h a c).txHdr = s.txHdr := rfl
@[simp] theorem State.parseDone_txOutLen (s : State) (h : FrameHeader) (a : Word) (c : RxClose) :
    (s.parseDone h a c).txOutLen = s.txOutLen := rfl
@[simp] theorem State.parseDone_maskPhase (s : State) (h : FrameHeader) (a : Word) (c : RxClose) :
    (s.parseDone h a c).maskPhase = s.maskPhase := rfl
@[simp] theorem State.parseDone_rxHdr (s : State) (h : FrameHeader) (a : Word) (c : RxClose) :
    (s.parseDone h a c).rxHdr = ⟨h.b0, maskBit h.b1, len7 h.b1, BitVec.ofNat 4 h.hdrLen⟩ := rfl
@[simp] theorem State.parseDone_rxLen (s : State) (h : FrameHeader) (a : Word) (c : RxClose) :
    (s.parseDone h a c).rxLen = BitVec.ofNat 64 h.len := rfl
@[simp] theorem State.parseDone_rxKey (s : State) (h : FrameHeader) (a : Word) (c : RxClose) :
    (s.parseDone h a c).rxKey = h.key := rfl
@[simp] theorem State.parseDone_rxPayload (s : State) (h : FrameHeader) (a : Word) (c : RxClose) :
    (s.parseDone h a c).rxPayload = a := rfl
@[simp] theorem State.parseDone_rxConsumed (s : State) (h : FrameHeader) (a : Word) (c : RxClose) :
    (s.parseDone h a c).rxConsumed = BitVec.ofNat 64 (h.hdrLen + h.len) := rfl
@[simp] theorem State.parseDone_rxNeed (s : State) (h : FrameHeader) (a : Word) (c : RxClose) :
    (s.parseDone h a c).rxNeed = 0#64 := rfl
@[simp] theorem State.parseDone_rxClose (s : State) (h : FrameHeader) (a : Word) (c : RxClose) :
    (s.parseDone h a c).rxClose = c := rfl
@[simp] theorem State.parseDone_u8State (s : State) (h : FrameHeader) (a : Word) (c : RxClose) :
    (s.parseDone h a c).u8State = s.u8State := rfl
@[simp] theorem State.parseDone_u8Count (s : State) (h : FrameHeader) (a : Word) (c : RxClose) :
    (s.parseDone h a c).u8Count = s.u8Count := rfl
@[simp] theorem State.parseDone_vkey (s : State) (h : FrameHeader) (a : Word) (c : RxClose) :
    (s.parseDone h a c).vkey = none := rfl
@[simp] theorem State.parseDone_mem (s : State) (h : FrameHeader) (a : Word) (c : RxClose) :
    (s.parseDone h a c).mem = s.mem := rfl
@[simp] theorem State.parseDone_port (s : State) (h : FrameHeader) (a : Word) (c : RxClose) :
    (s.parseDone h a c).port = s.port := rfl
@[simp] theorem State.parseDone_turns (s : State) (h : FrameHeader) (a : Word) (c : RxClose) :
    (s.parseDone h a c).turns = s.turns := rfl
@[simp] theorem State.parseDone_draws (s : State) (h : FrameHeader) (a : Word) (c : RxClose) :
    (s.parseDone h a c).draws = s.draws := rfl

/-! ## issue -/

@[simp] theorem State.issue_cfg (s : State) (v : Word) :
    (s.issue v).cfg = s.cfg := rfl
@[simp] theorem State.issue_ctrl (s : State) (v : Word) :
    (s.issue v).ctrl = s.ctrl := rfl
@[simp] theorem State.issue_sel (s : State) (v : Word) :
    (s.issue v).sel = s.sel := rfl
@[simp] theorem State.issue_maxFrame (s : State) (v : Word) :
    (s.issue v).maxFrame = s.maxFrame := rfl
@[simp] theorem State.issue_cmd (s : State) (v : Word) :
    (s.issue v).cmd = v := rfl
@[simp] theorem State.issue_status (s : State) (v : Word) :
    (s.issue v).status = { s.status with busy := true } := rfl
@[simp] theorem State.issue_errInfo0 (s : State) (v : Word) :
    (s.issue v).errInfo0 = s.errInfo0 := rfl
@[simp] theorem State.issue_errInfo1 (s : State) (v : Word) :
    (s.issue v).errInfo1 = s.errInfo1 := rfl
@[simp] theorem State.issue_aSrc (s : State) (v : Word) :
    (s.issue v).aSrc = s.aSrc := rfl
@[simp] theorem State.issue_aDst (s : State) (v : Word) :
    (s.issue v).aDst = s.aDst := rfl
@[simp] theorem State.issue_aLen (s : State) (v : Word) :
    (s.issue v).aLen = s.aLen := rfl
@[simp] theorem State.issue_key (s : State) (v : Word) :
    (s.issue v).key = s.key := rfl
@[simp] theorem State.issue_txHdr (s : State) (v : Word) :
    (s.issue v).txHdr = s.txHdr := rfl
@[simp] theorem State.issue_txOutLen (s : State) (v : Word) :
    (s.issue v).txOutLen = s.txOutLen := rfl
@[simp] theorem State.issue_maskPhase (s : State) (v : Word) :
    (s.issue v).maskPhase = s.maskPhase := rfl
@[simp] theorem State.issue_rxHdr (s : State) (v : Word) :
    (s.issue v).rxHdr = s.rxHdr := rfl
@[simp] theorem State.issue_rxLen (s : State) (v : Word) :
    (s.issue v).rxLen = s.rxLen := rfl
@[simp] theorem State.issue_rxKey (s : State) (v : Word) :
    (s.issue v).rxKey = s.rxKey := rfl
@[simp] theorem State.issue_rxPayload (s : State) (v : Word) :
    (s.issue v).rxPayload = s.rxPayload := rfl
@[simp] theorem State.issue_rxConsumed (s : State) (v : Word) :
    (s.issue v).rxConsumed = s.rxConsumed := rfl
@[simp] theorem State.issue_rxNeed (s : State) (v : Word) :
    (s.issue v).rxNeed = s.rxNeed := rfl
@[simp] theorem State.issue_rxClose (s : State) (v : Word) :
    (s.issue v).rxClose = s.rxClose := rfl
@[simp] theorem State.issue_u8State (s : State) (v : Word) :
    (s.issue v).u8State = s.u8State := rfl
@[simp] theorem State.issue_u8Count (s : State) (v : Word) :
    (s.issue v).u8Count = s.u8Count := rfl
@[simp] theorem State.issue_vkey (s : State) (v : Word) :
    (s.issue v).vkey = s.vkey := rfl
@[simp] theorem State.issue_mem (s : State) (v : Word) :
    (s.issue v).mem = s.mem := rfl
@[simp] theorem State.issue_port (s : State) (v : Word) :
    (s.issue v).port = s.port := rfl
@[simp] theorem State.issue_turns (s : State) (v : Word) :
    (s.issue v).turns = s.turns := rfl
@[simp] theorem State.issue_draws (s : State) (v : Word) :
    (s.issue v).draws = s.draws := rfl

/-! ## formVKey -/

@[simp] theorem State.formVKey_cfg (s : State) (k : BitVec 32) (p a n : Nat) :
    (s.formVKey k p a n).cfg = s.cfg := rfl
@[simp] theorem State.formVKey_ctrl (s : State) (k : BitVec 32) (p a n : Nat) :
    (s.formVKey k p a n).ctrl = s.ctrl := rfl
@[simp] theorem State.formVKey_sel (s : State) (k : BitVec 32) (p a n : Nat) :
    (s.formVKey k p a n).sel = s.sel := rfl
@[simp] theorem State.formVKey_maxFrame (s : State) (k : BitVec 32) (p a n : Nat) :
    (s.formVKey k p a n).maxFrame = s.maxFrame := rfl
@[simp] theorem State.formVKey_cmd (s : State) (k : BitVec 32) (p a n : Nat) :
    (s.formVKey k p a n).cmd = s.cmd := rfl
@[simp] theorem State.formVKey_status (s : State) (k : BitVec 32) (p a n : Nat) :
    (s.formVKey k p a n).status = s.status := rfl
@[simp] theorem State.formVKey_errInfo0 (s : State) (k : BitVec 32) (p a n : Nat) :
    (s.formVKey k p a n).errInfo0 = s.errInfo0 := rfl
@[simp] theorem State.formVKey_errInfo1 (s : State) (k : BitVec 32) (p a n : Nat) :
    (s.formVKey k p a n).errInfo1 = s.errInfo1 := rfl
@[simp] theorem State.formVKey_aSrc (s : State) (k : BitVec 32) (p a n : Nat) :
    (s.formVKey k p a n).aSrc = s.aSrc := rfl
@[simp] theorem State.formVKey_aDst (s : State) (k : BitVec 32) (p a n : Nat) :
    (s.formVKey k p a n).aDst = s.aDst := rfl
@[simp] theorem State.formVKey_aLen (s : State) (k : BitVec 32) (p a n : Nat) :
    (s.formVKey k p a n).aLen = s.aLen := rfl
@[simp] theorem State.formVKey_key (s : State) (k : BitVec 32) (p a n : Nat) :
    (s.formVKey k p a n).key = s.key := rfl
@[simp] theorem State.formVKey_txHdr (s : State) (k : BitVec 32) (p a n : Nat) :
    (s.formVKey k p a n).txHdr = s.txHdr := rfl
@[simp] theorem State.formVKey_txOutLen (s : State) (k : BitVec 32) (p a n : Nat) :
    (s.formVKey k p a n).txOutLen = s.txOutLen := rfl
@[simp] theorem State.formVKey_maskPhase (s : State) (k : BitVec 32) (p a n : Nat) :
    (s.formVKey k p a n).maskPhase = s.maskPhase := rfl
@[simp] theorem State.formVKey_rxHdr (s : State) (k : BitVec 32) (p a n : Nat) :
    (s.formVKey k p a n).rxHdr = s.rxHdr := rfl
@[simp] theorem State.formVKey_rxLen (s : State) (k : BitVec 32) (p a n : Nat) :
    (s.formVKey k p a n).rxLen = s.rxLen := rfl
@[simp] theorem State.formVKey_rxKey (s : State) (k : BitVec 32) (p a n : Nat) :
    (s.formVKey k p a n).rxKey = s.rxKey := rfl
@[simp] theorem State.formVKey_rxPayload (s : State) (k : BitVec 32) (p a n : Nat) :
    (s.formVKey k p a n).rxPayload = s.rxPayload := rfl
@[simp] theorem State.formVKey_rxConsumed (s : State) (k : BitVec 32) (p a n : Nat) :
    (s.formVKey k p a n).rxConsumed = s.rxConsumed := rfl
@[simp] theorem State.formVKey_rxNeed (s : State) (k : BitVec 32) (p a n : Nat) :
    (s.formVKey k p a n).rxNeed = s.rxNeed := rfl
@[simp] theorem State.formVKey_rxClose (s : State) (k : BitVec 32) (p a n : Nat) :
    (s.formVKey k p a n).rxClose = s.rxClose := rfl
@[simp] theorem State.formVKey_u8State (s : State) (k : BitVec 32) (p a n : Nat) :
    (s.formVKey k p a n).u8State = s.u8State := rfl
@[simp] theorem State.formVKey_u8Count (s : State) (k : BitVec 32) (p a n : Nat) :
    (s.formVKey k p a n).u8Count = s.u8Count := rfl
@[simp] theorem State.formVKey_vkey (s : State) (k : BitVec 32) (p a n : Nat) :
    (s.formVKey k p a n).vkey = some (vectorKey (laneBytes s.sel) k ((p + headLen (laneBytes s.sel) a n) % 4)) := rfl
@[simp] theorem State.formVKey_mem (s : State) (k : BitVec 32) (p a n : Nat) :
    (s.formVKey k p a n).mem = s.mem := rfl
@[simp] theorem State.formVKey_port (s : State) (k : BitVec 32) (p a n : Nat) :
    (s.formVKey k p a n).port = s.port := rfl
@[simp] theorem State.formVKey_turns (s : State) (k : BitVec 32) (p a n : Nat) :
    (s.formVKey k p a n).turns = s.turns := rfl
@[simp] theorem State.formVKey_draws (s : State) (k : BitVec 32) (p a n : Nat) :
    (s.formVKey k p a n).draws = s.draws := rfl

/-! ## answer -/

@[simp] theorem State.answer_cfg (s : State) (v : Word) :
    (s.answer v).cfg = s.cfg := rfl
@[simp] theorem State.answer_ctrl (s : State) (v : Word) :
    (s.answer v).ctrl = s.ctrl := rfl
@[simp] theorem State.answer_sel (s : State) (v : Word) :
    (s.answer v).sel = s.sel := rfl
@[simp] theorem State.answer_maxFrame (s : State) (v : Word) :
    (s.answer v).maxFrame = s.maxFrame := rfl
@[simp] theorem State.answer_cmd (s : State) (v : Word) :
    (s.answer v).cmd = s.cmd := rfl
@[simp] theorem State.answer_status (s : State) (v : Word) :
    (s.answer v).status = s.status := rfl
@[simp] theorem State.answer_errInfo0 (s : State) (v : Word) :
    (s.answer v).errInfo0 = s.errInfo0 := rfl
@[simp] theorem State.answer_errInfo1 (s : State) (v : Word) :
    (s.answer v).errInfo1 = s.errInfo1 := rfl
@[simp] theorem State.answer_aSrc (s : State) (v : Word) :
    (s.answer v).aSrc = s.aSrc := rfl
@[simp] theorem State.answer_aDst (s : State) (v : Word) :
    (s.answer v).aDst = s.aDst := rfl
@[simp] theorem State.answer_aLen (s : State) (v : Word) :
    (s.answer v).aLen = s.aLen := rfl
@[simp] theorem State.answer_key (s : State) (v : Word) :
    (s.answer v).key = s.key := rfl
@[simp] theorem State.answer_txHdr (s : State) (v : Word) :
    (s.answer v).txHdr = s.txHdr := rfl
@[simp] theorem State.answer_txOutLen (s : State) (v : Word) :
    (s.answer v).txOutLen = s.txOutLen := rfl
@[simp] theorem State.answer_maskPhase (s : State) (v : Word) :
    (s.answer v).maskPhase = s.maskPhase := rfl
@[simp] theorem State.answer_rxHdr (s : State) (v : Word) :
    (s.answer v).rxHdr = s.rxHdr := rfl
@[simp] theorem State.answer_rxLen (s : State) (v : Word) :
    (s.answer v).rxLen = s.rxLen := rfl
@[simp] theorem State.answer_rxKey (s : State) (v : Word) :
    (s.answer v).rxKey = s.rxKey := rfl
@[simp] theorem State.answer_rxPayload (s : State) (v : Word) :
    (s.answer v).rxPayload = s.rxPayload := rfl
@[simp] theorem State.answer_rxConsumed (s : State) (v : Word) :
    (s.answer v).rxConsumed = s.rxConsumed := rfl
@[simp] theorem State.answer_rxNeed (s : State) (v : Word) :
    (s.answer v).rxNeed = s.rxNeed := rfl
@[simp] theorem State.answer_rxClose (s : State) (v : Word) :
    (s.answer v).rxClose = s.rxClose := rfl
@[simp] theorem State.answer_u8State (s : State) (v : Word) :
    (s.answer v).u8State = s.u8State := rfl
@[simp] theorem State.answer_u8Count (s : State) (v : Word) :
    (s.answer v).u8Count = s.u8Count := rfl
@[simp] theorem State.answer_vkey (s : State) (v : Word) :
    (s.answer v).vkey = s.vkey := rfl
@[simp] theorem State.answer_mem (s : State) (v : Word) :
    (s.answer v).mem = s.mem := rfl
@[simp] theorem State.answer_port (s : State) (v : Word) :
    (s.answer v).port = { s.port with reads := v :: s.port.reads } := rfl
@[simp] theorem State.answer_turns (s : State) (v : Word) :
    (s.answer v).turns = s.turns := rfl
@[simp] theorem State.answer_draws (s : State) (v : Word) :
    (s.answer v).draws = s.draws + 1 := rfl

/-! ## afterTurn: only the schedule changes -/

@[simp] theorem State.afterTurn_cfg (s : State) : s.afterTurn.cfg = s.cfg := by
  unfold State.afterTurn; split <;> rfl
@[simp] theorem State.afterTurn_ctrl (s : State) : s.afterTurn.ctrl = s.ctrl := by
  unfold State.afterTurn; split <;> rfl
@[simp] theorem State.afterTurn_sel (s : State) : s.afterTurn.sel = s.sel := by
  unfold State.afterTurn; split <;> rfl
@[simp] theorem State.afterTurn_maxFrame (s : State) : s.afterTurn.maxFrame = s.maxFrame := by
  unfold State.afterTurn; split <;> rfl
@[simp] theorem State.afterTurn_cmd (s : State) : s.afterTurn.cmd = s.cmd := by
  unfold State.afterTurn; split <;> rfl
@[simp] theorem State.afterTurn_status (s : State) : s.afterTurn.status = s.status := by
  unfold State.afterTurn; split <;> rfl
@[simp] theorem State.afterTurn_errInfo0 (s : State) : s.afterTurn.errInfo0 = s.errInfo0 := by
  unfold State.afterTurn; split <;> rfl
@[simp] theorem State.afterTurn_errInfo1 (s : State) : s.afterTurn.errInfo1 = s.errInfo1 := by
  unfold State.afterTurn; split <;> rfl
@[simp] theorem State.afterTurn_aSrc (s : State) : s.afterTurn.aSrc = s.aSrc := by
  unfold State.afterTurn; split <;> rfl
@[simp] theorem State.afterTurn_aDst (s : State) : s.afterTurn.aDst = s.aDst := by
  unfold State.afterTurn; split <;> rfl
@[simp] theorem State.afterTurn_aLen (s : State) : s.afterTurn.aLen = s.aLen := by
  unfold State.afterTurn; split <;> rfl
@[simp] theorem State.afterTurn_key (s : State) : s.afterTurn.key = s.key := by
  unfold State.afterTurn; split <;> rfl
@[simp] theorem State.afterTurn_txHdr (s : State) : s.afterTurn.txHdr = s.txHdr := by
  unfold State.afterTurn; split <;> rfl
@[simp] theorem State.afterTurn_txOutLen (s : State) : s.afterTurn.txOutLen = s.txOutLen := by
  unfold State.afterTurn; split <;> rfl
@[simp] theorem State.afterTurn_maskPhase (s : State) : s.afterTurn.maskPhase = s.maskPhase := by
  unfold State.afterTurn; split <;> rfl
@[simp] theorem State.afterTurn_rxHdr (s : State) : s.afterTurn.rxHdr = s.rxHdr := by
  unfold State.afterTurn; split <;> rfl
@[simp] theorem State.afterTurn_rxLen (s : State) : s.afterTurn.rxLen = s.rxLen := by
  unfold State.afterTurn; split <;> rfl
@[simp] theorem State.afterTurn_rxKey (s : State) : s.afterTurn.rxKey = s.rxKey := by
  unfold State.afterTurn; split <;> rfl
@[simp] theorem State.afterTurn_rxPayload (s : State) : s.afterTurn.rxPayload = s.rxPayload := by
  unfold State.afterTurn; split <;> rfl
@[simp] theorem State.afterTurn_rxConsumed (s : State) : s.afterTurn.rxConsumed = s.rxConsumed := by
  unfold State.afterTurn; split <;> rfl
@[simp] theorem State.afterTurn_rxNeed (s : State) : s.afterTurn.rxNeed = s.rxNeed := by
  unfold State.afterTurn; split <;> rfl
@[simp] theorem State.afterTurn_rxClose (s : State) : s.afterTurn.rxClose = s.rxClose := by
  unfold State.afterTurn; split <;> rfl
@[simp] theorem State.afterTurn_u8State (s : State) : s.afterTurn.u8State = s.u8State := by
  unfold State.afterTurn; split <;> rfl
@[simp] theorem State.afterTurn_u8Count (s : State) : s.afterTurn.u8Count = s.u8Count := by
  unfold State.afterTurn; split <;> rfl
@[simp] theorem State.afterTurn_vkey (s : State) : s.afterTurn.vkey = s.vkey := by
  unfold State.afterTurn; split <;> rfl
@[simp] theorem State.afterTurn_mem (s : State) : s.afterTurn.mem = s.mem := by
  unfold State.afterTurn; split <;> rfl
@[simp] theorem State.afterTurn_port (s : State) : s.afterTurn.port = s.port := by
  unfold State.afterTurn; split <;> rfl
@[simp] theorem State.afterTurn_draws (s : State) : s.afterTurn.draws = s.draws := by
  unfold State.afterTurn; split <;> rfl

/-- With no host access waiting no choice is made, so the schedule is kept. -/
theorem State.afterTurn_of_queue_nil {s : State} (h : s.port.queue = []) : s.afterTurn = s := by
  simp [State.afterTurn, State.contended, h]

end Sys2Proof.Machine
end

