-- ==== Sys2Proof/Laws/Utf8.lean ====
section
/-! SUPPORT. The validator's loop against the automaton run over a byte list. -/

namespace Sys2Proof.Machine

open Sys2Proof.Safety

@[simp] theorem runUtf8_nil (t : Utf8State) : runUtf8 t [] = t := rfl

@[simp] theorem runUtf8_cons (t : Utf8State) (b : Byte) (bs : List Byte) :
    runUtf8 t (b :: bs) = runUtf8 (delta t b) bs := rfl

theorem runUtf8_append (t : Utf8State) (xs ys : List Byte) :
    runUtf8 t (xs ++ ys) = runUtf8 (runUtf8 t xs) ys := by simp [runUtf8]

/-- REJECT is sticky. -/
@[simp] theorem runUtf8_reject (bs : List Byte) : runUtf8 .reject bs = .reject := by
  induction bs with
  | nil => rfl
  | cons c cs ih => simpa [delta] using ih

theorem byteIn_iff (b : Byte) (lo hi : Nat) : byteIn b lo hi = true ↔ within b lo hi := by simp [byteIn, within]

/-- A run that stays out of REJECT ends. -/
theorem feed_ends (t : Utf8State) (i : Nat) (bs : List Byte) (h : runUtf8 t bs ≠ .reject) :
    feed t i bs = .ends (runUtf8 t bs) := by
  induction bs generalizing t i with
  | nil => rfl
  | cons b bs ih =>
    have hd : delta t b ≠ .reject := by
      intro e
      rw [runUtf8_cons, e, runUtf8_reject] at h
      exact h rfl
    simp only [feed, hd, if_false]
    exact ih _ _ h

/-- The loop stops at the first byte that rejects. -/
theorem feed_rejects (t : Utf8State) (i : Nat) (before after : List Byte) (b : Byte) (h : runUtf8 t before ≠ .reject)
    (hd : delta (runUtf8 t before) b = .reject) :
    feed t i (before ++ b :: after) = .rejects (i + before.length) (runUtf8 t before) := by
  induction before generalizing t i with
  | nil =>
    simp only [runUtf8_nil] at hd
    simp [feed, hd]
  | cons c cs ih =>
    have hc : delta t c ≠ .reject := by
      intro e
      rw [runUtf8_cons, e, runUtf8_reject] at h
      exact h rfl
    simp only [List.cons_append, feed, hc, if_false]
    rw [ih (delta t c) (i + 1) h hd]
    simp only [runUtf8_cons, List.length_cons]
    congr 1
    omega

/-- A run that ends in REJECT has a first rejecting byte. -/
theorem runUtf8_first_reject (t : Utf8State) (bs : List Byte) (ht : t ≠ .reject) (h : runUtf8 t bs = .reject) :
    ∃ before b after, bs = before ++ b :: after ∧ runUtf8 t before ≠ .reject ∧
      delta (runUtf8 t before) b = .reject := by
  induction bs generalizing t with
  | nil => exact absurd h ht
  | cons c cs ih =>
    by_cases hc : delta t c = .reject
    · exact ⟨[], c, cs, rfl, ht, hc⟩
    · obtain ⟨before, b, after, h1, h2, h3⟩ := ih (delta t c) hc h
      exact ⟨c :: before, b, after, by simp [h1], h2, h3⟩

end Sys2Proof.Machine
end

