-- ==== Sys2Proof/Tests/Slice0.lean ====
section
/-! SUPPORT. The model's own tests: the smoke of `WellFormed`, decoding of words written out from the tables of R82, R84 and
R89, a step or two of each instruction against the vectors of 95_test_vectors.md, and, for every statement with hypotheses,
a concrete state and operands that meet them. -/

namespace Sys2Proof.Tests

open Sys2Proof.Machine Sys2Proof.Safety

/-! ## Small states -/

/-- The parameters of the vectors: `MEM_BYTES` = 0x10000, `RESET_MAX_FRAME` = 0x100000; two SIMD paths. -/
def testParams : Params :=
  { memBytesLess16 := 0xFFF0, memBase := 0, regBase := 0x20000, hasV128 := true, hasV256 := true, hasV512 := false,
    resetMaxFrameLess1 := 0xFFFFF }

/-- The block after reset with those parameters, no byte of memory known. -/
def blank : State := State.powerOn testParams []

/-- The bytes at 0x100 as the slice, 0x800 as the destination, and a `CTRL` word. -/
def buffered (ctrl : Word) (bs : List Byte) : State :=
  { blank with
    ctrl := Ctrl.ofWord ctrl, mem := Memory.writeBytes [] 0x100 bs, aSrc := 0x100, aDst := 0x800,
    aLen := BitVec.ofNat 64 bs.length }

/-- A payload at 0x100, a header and a key for SER to 0x400. -/
def outbound (ctrl : Word) (h : Byte) (bs : List Byte) (key : BitVec 32) : State :=
  { buffered ctrl bs with txHdr := h, key := key, aDst := 0x400 }

/-- A command pending, with moves of the host waiting and a schedule. -/
def pendingWith (w : Word) (queue : List HostMove) (turns : List Agent) : State :=
  { (buffered 0x5 [0x41, 0x42]).issue w with port := { queue := queue, reads := [] }, turns := turns }

/-- The state after an instruction. -/
def after (i : Instr) (s : State) : State :=
  match exec i s with
  | .next t => t
  | .fault _ => s
  | .refused _ => s

/-- The state after a step. -/
def stepped (s : State) : State :=
  match step s with
  | .next t => t
  | .fault _ => s
  | .refused _ => s

/-- `STATUS` as the host reads it. -/
def statusWord (s : State) : Word := s.regRead 0x030

/-- "Hello". -/
def hello : List Byte := [0x48, 0x65, 0x6C, 0x6C, 0x6F]

/-- Scenario 2 of the source: masked text "Hello" (vector W3). -/
def maskedHello : List Byte := [0x81, 0x85, 0x37, 0xFA, 0x21, 0x3D, 0x7F, 0x9F, 0x4D, 0x51, 0x58]

/-! ## WellFormed: a phase that no two bits hold is refused (R148) -/

theorem test_wf_phase_four : (Instr.mask 4).wf = false := by decide
theorem test_wf_phase_three : (Instr.mask 3).wf = true := by decide

/-! ## Decoding: words written out from R82 (flags [15:8], opcode [7:0]) and R84, R89 -/

theorem test_decode_mask : decodeTableWord 64 0b0000001100000001 = some (.mask 3) := by decide
theorem test_decode_parse : decodeTableWord 64 0b0000000100010000 = some (.parse true) := by decide
theorem test_decode_ser : decodeTableWord 64 0b0000000000010001 = some (.ser false) := by decide
theorem test_decode_u8rst : decodeTableWord 64 0b0000000000100000 = some .u8rst := by decide
theorem test_decode_u8feed : decodeTableWord 64 0b0000000000100001 = some .u8feed := by decide
theorem test_decode_u8fin : decodeTableWord 64 0b0000000000100010 = some .u8fin := by decide
theorem test_decode_continuation : decodeTableWord 8 0b10000000 = some (.frameContinuation true false false false) := by
  decide
theorem test_decode_text : decodeTableWord 8 0b11000001 = some (.frameText true true false false) := by decide
theorem test_decode_binary : decodeTableWord 8 0b00100010 = some (.frameBinary false false true false) := by decide
theorem test_decode_close : decodeTableWord 8 0b10001000 = some (.frameClose true false false false) := by decide
theorem test_decode_ping : decodeTableWord 8 0b10011001 = some (.framePing true false false true) := by decide
theorem test_decode_pong : decodeTableWord 8 0b10001010 = some (.framePong true false false false) := by decide

/-- Vectors I-2, I-3, I-4, I-6 and I-11, and a frame opcode of R89 that is reserved. -/
theorem test_decode_illegal :
    [0x401, 0x02, 0x10020, 0x120, 0x100000021].map (decodeTableWord 64) = [none, none, none, none, none] ∧
      decodeTableWord 8 0b10000011 = none ∧ decodeTableWord 8 0x181 = none := by decide

/-! ## A placed word is the next instruction -/

theorem test_placed_command :
    step (State.reset.withFetchWord 64 0x20) = exec .u8rst (State.reset.withFetchWord 64 0x20) := rfl

theorem test_placed_frame :
    step (State.reset.withFetchWord 8 0x81) = exec (.frameText true false false false) (State.reset.withFetchWord 8 0x81) :=
  rfl

/-! ## Each instruction, against 95_test_vectors.md -/

/-- M-1. -/
theorem test_mask_hello :
    (after (.mask 0) { buffered 0x4 hello with key := 0x37FA213D }).mem.readBytes 0x100 5 =
      [0x7F, 0x9F, 0x4D, 0x51, 0x58] := by decide
/-- M-8: no write, and the phase register keeps its value. -/
theorem test_mask_out_of_range :
    let t := after (.mask 0) { buffered 0x4 [] with cmd := 0x001, aSrc := 0xFFFE, aLen := 3, maskPhase := 2 }
    statusWord t = 0x0100004104 ∧ t.errInfo0 = 0xFFFE ∧ t.errInfo1 = 3 ∧ t.maskPhase = 2 := by decide
/-- W3. -/
theorem test_parse_masked :
    let t := after (.parse true) ((buffered 0x5 maskedHello).issue 0x110)
    statusWord t = 0x1000000000 ∧ t.regRead 0x080 = 0x60B81 ∧ t.regRead 0x090 = 0x37FA213D ∧ t.rxPayload = 0x106 ∧
      t.mem.readBytes 0x106 5 = hello := by decide
/-- P-NM-3. -/
theorem test_parse_need_more :
    let t := after (.parse true) ((buffered 0x5 [0x81, 0xFE]).issue 0x110)
    statusWord t = 0x1000000002 ∧ t.rxNeed = 6 := by decide
/-- S-2. -/
theorem test_ser_masked :
    let t := after (.ser true) (outbound 0x4 0x81 hello 0x37FA213D)
    t.mem.readBytes 0x400 11 = maskedHello ∧ t.txOutLen = 11 := by decide
/-- S-3. -/
theorem test_ser_role :
    let t := after (.ser false) ((outbound 0x4 0x81 hello 0x37FA213D).issue 0x011)
    statusWord t = 0x1100000704 ∧ t.errInfo0 = 0 ∧ t.errInfo1 = 1 := by decide
/-- U-9, its fourth command. -/
theorem test_u8rst :
    let t := after .u8rst { buffered 0x5 [] with u8State := .reject, u8Count := 2 }
    t.u8State = .accept ∧ t.u8Count = 0 := by decide
/-- U-4. -/
theorem test_u8feed_surrogate :
    let t := after .u8feed (buffered 0x5 [0xED, 0xA0, 0x80])
    t.u8State = .reject ∧ t.u8Count = 1 ∧ t.errInfo0 = 1 ∧ t.errInfo1 = 5 := by decide
/-- U-16, its second command. -/
theorem test_u8feed_split :
    let t := after .u8feed { buffered 0x5 [0x80, 0xC2] with u8State := .t1, u8Count := 2 }
    t.u8State = .t1 ∧ t.u8Count = 4 := by decide
/-- U-2, its second command. -/
theorem test_u8fin_dangling :
    let t := after .u8fin ({ buffered 0x5 [] with u8State := .t1, u8Count := 2 }.issue 0x022)
    statusWord t = 0x2203EF0C04 ∧ t.errInfo0 = 2 ∧ t.errInfo1 = 1 ∧ t.u8State = .reject := by decide
/-- W4, frame 2. -/
theorem test_frame_continuation :
    (after (.frameContinuation true false false false) (buffered 0x7 [0x80, 0x02, 0x6C, 0x6F])).regRead 0x080 = 0x20480 := by
  decide
/-- P-OK-3, and P-E-5 with the same frame and no claim. -/
theorem test_frame_text :
    (after (.frameText true true false false) (buffered 0x47 [0xC1, 0x00])).regRead 0x080 = 0x200C1 ∧
      statusWord (after (.frameText true true false false) ((buffered 0x7 [0xC1, 0x00]).issue 0x110)) = 0x1003EA0404 := by
  decide
/-- P-E-3. -/
theorem test_frame_binary :
    let t := after (.frameBinary true false false false)
      ((buffered 0x7 [0x82, 0x7F, 0, 0, 0, 0, 0, 0, 0xFF, 0xFF]).issue 0x110)
    statusWord t = 0x1003EA0E04 ∧ t.errInfo0 = 2 ∧ t.errInfo1 = 65535 := by decide
/-- P-OK-7. -/
theorem test_frame_close :
    (after (.frameClose true false false false) (buffered 0x7 [0x88, 0x04, 0x03, 0xE9, 0x6F, 0x6B])).regRead 0x0B0 =
      0x20303E9 := by decide
/-- P-E-9: InvalidUtf8(3, 1) with hint 0. -/
theorem test_frame_close_bad_reason :
    let t := after (.frameClose true false false false) ((buffered 0x7 [0x88, 0x04, 0x03, 0xE8, 0xC3, 0x28]).issue 0x110)
    statusWord t = 0x1000000C04 ∧ t.errInfo0 = 3 ∧ t.errInfo1 = 1 := by decide
/-- P-E-6. -/
theorem test_frame_ping :
    let t := after (.framePing false false false false) ((buffered 0x7 [0x09, 0x00]).issue 0x110)
    statusWord t = 0x1003EA0504 ∧ t.errInfo0 = 9 ∧ t.errInfo1 = 9 := by decide
/-- The second frame of P-OK-1, on its own. -/
theorem test_frame_pong :
    (after (.framePong true false false false) (buffered 0x7 [0x8A, 0x00])).rxConsumed = 2 := by decide
/-- I-2: an illegal word. -/
theorem test_illegal_word : statusWord (stepped (blank.issue 0x401)) = 0x0100004004 := by decide
/-- I-1, I-8, I-9 and I-10. -/
theorem test_registers :
    (blank.regWrite 0x010 0xFF).regRead 0x010 = 0x77 ∧ (blank.regWrite 0x020 0).regRead 0x020 = 0x100000 ∧
      (blank.regWrite 0x018 3).regRead 0x018 = 2 ∧ blank.regRead 0x0C8 = 0 := by decide

/-- R301: a byte nothing has written is the one power-on left; a written byte is known, and the list stays in order. -/
theorem test_memory_write :
    State.reset.mem.read 0x100 = Config.powerOnByte 0x100 ∧
      Memory.write [(0x10, 1), (0x12, 2)] 0x11 0 = [(0x10, 1), (0x11, 0), (0x12, 2)] ∧
      Memory.write [(0x10, 1), (0x12, 2)] 0x12 0 = [(0x10, 1), (0x12, 0)] := ⟨rfl, rfl, rfl⟩

/-- R64 on a pending PARSE with Z = 0: the payload at `A_DST`; and the model's choice of log 8: nothing where the header's
second byte would lie past the window. -/
theorem test_parse_write_range :
    (buffered 0x7 [0x82, 0x03]).writeRanges (.parse false) = [⟨0x800, 3⟩] ∧
      ({ buffered 0x7 [0x82, 0x03] with aSrc := 0xFFFF }).writeRanges (.parse false) = [] := by decide

/-! ## A state and operands for each statement's hypotheses, clause by clause -/

theorem witness_DecodeUndoesEncode : (Instr.mask 3).wf = true ∧ (Instr.mask 0).wf = true := by decide

theorem witness_EncodeUndoesDecode :
    decode (.command 0x301) = .ok (.mask 3) ∧ decode (.frameByte0 0x8A) = .ok (.framePong true false false false) := ⟨rfl, rfl⟩

theorem witness_IllegalWordCompletesWithIllegalCommand :
    blank.status.busy = false ∧ (blank.issue 0x401).mover = some .engine ∧
      decodeCommand (blank.issue 0x401).cmd = .error .reservedFlags := ⟨rfl, rfl, rfl⟩

theorem witness_EngineStepRunsPendingCommand :
    (pendingWith 0x021 [] []).status.busy = true ∧ decodeCommand (pendingWith 0x021 [] []).cmd = .ok .u8feed ∧
      (pendingWith 0x021 [] []).port.queue = [] ∧ (pendingWith 0x021 [.poll] []).port.queue ≠ [] ∧
      (pendingWith 0x021 [.poll] []).turns.headD .engine = .engine ∧
      (pendingWith 0x021 [.poll] [.engine, .host]).turns.headD .engine = .engine := by
  refine ⟨rfl, rfl, rfl, ?_, rfl, rfl⟩
  decide

theorem witness_IdleBlockKeepsItsState :
    blank.status.busy = false ∧ blank.port.queue = [] ∧
      { blank with port := { queue := [.poll], reads := [] } }.port.queue = .poll :: [] := ⟨rfl, rfl, rfl⟩

theorem witness_ParseRunsTheFrameItDecodes :
    (buffered 0x7 [0x89]).aLen ≠ 0#64 ∧
      decodeFrameByte (byte0 (buffered 0x7 [0x89])) = .ok (.framePing true false false false) := by
  refine ⟨by decide, rfl⟩

/-- Each outcome of R123 is some command's, and each command that can end ERROR does. -/
theorem witness_EveryCommandCompletes :
    (after .u8rst blank).status.result = .ok ∧ (after (.parse true) (buffered 0x7 [0x81])).status.result = .needMore ∧
      (after (.parse true) (buffered 0x7 [0x83, 0])).status.result = .error ∧
      (after (.framePing false false false false) (buffered 0x7 [0x09, 0x00])).status.result = .error ∧
      (after (.mask 0) { buffered 0x4 hello with aSrc := 0xFFFE }).status.result = .error ∧
      (after (.ser false) (outbound 0x4 0x81 hello 0)).status.result = .error ∧
      (after .u8feed (buffered 0x5 [0xFF])).status.result = .error ∧
      (after .u8fin { blank with u8State := .t1 }).status.result = .error := by decide

theorem witness_CommandsWriteOnlyTheirRegisters :
    exec (.parse true) (buffered 0x7 [0x81]) = .next (after (.parse true) (buffered 0x7 [0x81])) ∧
      exec .u8fin blank = .next (after .u8fin blank) ∧ (after .u8fin blank).status.result = .ok ∧
      exec .u8fin { blank with u8State := .t1 } = .next (after .u8fin { blank with u8State := .t1 }) ∧
      (after .u8fin { blank with u8State := .t1 }).status.result = .error := by
  refine ⟨rfl, rfl, ?_, rfl, ?_⟩ <;> decide

/-- The byte before the slice, and the byte after it. -/
theorem witness_CommandsWriteOnlyTheirRanges :
    let s := buffered 0x4 hello
    exec (.mask 1) s = .next (after (.mask 1) s) ∧
      (∀ r ∈ s.writeRanges (.mask 1), ¬(r.start ≤ 0xFF ∧ 0xFF < r.start + r.len)) ∧
      (∀ r ∈ s.writeRanges (.mask 1), ¬(r.start ≤ 0x105 ∧ 0x105 < r.start + r.len)) := by
  refine ⟨rfl, ?_, ?_⟩ <;> decide

/-- Two memories that differ outside a read range. -/
theorem witness_CommandsReadOnlyTheirRanges :
    let s := buffered 0x4 [0x41, 0x42]
    (∀ r ∈ s.readRanges (.mask 1), ∀ a, r.start ≤ a → a < r.start + r.len →
      (s.mem.write 0x102 0xFF).read a = s.mem.read a) ∧ s.mem.write 0x102 0xFF ≠ s.mem := by
  refine ⟨?_, by decide⟩
  intro r hr a h1 h2
  simp only [State.readRanges, List.mem_singleton] at hr
  subst hr
  have h3 : a = 0x100 ∨ a = 0x101 := by
    change 0x100 ≤ a at h1
    change a < 0x100 + 2 at h2
    omega
  rcases h3 with rfl | rfl <;> decide

theorem witness_FailedCommandWritesNoMemory :
    let s := { buffered 0x4 hello with aSrc := 0xFFFE }
    exec (.mask 0) s = .next (after (.mask 0) s) ∧ (after (.mask 0) s).status.result ≠ .ok := by
  refine ⟨rfl, by decide⟩

/-- One byte past the end of the window. -/
theorem witness_SliceOutOfRangeRaisesBoundsFault :
    let s := { buffered 0x4 [0x41] with aSrc := 0x10000 }
    s.aLen ≠ 0#64 ∧ s.cfg.memBytes < s.aSrc.toNat + s.aLen.toNat := by decide

/-- An error of MASK, of SER, of a Close frame, of another frame, of U8FEED and of U8FIN. -/
theorem witness_CloseHintFollowsTable :
    (after (.mask 0) { buffered 0x4 hello with aSrc := 0xFFFE }).status.result = .error ∧
      (after (.ser false) (outbound 0x4 0x81 hello 0)).status.result = .error ∧
      (after (.parse true) (buffered 0x7 [0x88, 0x01, 0x03])).status.result = .error ∧
      (byte0 (buffered 0x7 [0x88, 0x01, 0x03])).extractLsb' 0 4 = 8#4 ∧
      (after (.parse true) (buffered 0x7 [0x83, 0x00])).status.result = .error ∧
      (byte0 (buffered 0x7 [0x83, 0x00])).extractLsb' 0 4 ≠ 8#4 ∧
      (after (.framePing false false false false) (buffered 0x7 [0x09, 0x00])).status.result = .error ∧
      (after .u8feed (buffered 0x5 [0xFF])).status.result = .error ∧
      (after .u8fin { blank with u8State := .t1 }).status.result = .error := by decide

/-- The empty slice beyond the window, the last slice of the window, and one byte more. -/
theorem witness_MaskAppliesKeyFromPhase :
    (let s := { blank with aSrc := 0x50000 }
     s.aLen = 0#64 ∨ s.aSrc.toNat + s.aLen.toNat ≤ s.cfg.memBytes) ∧
    (let s := { blank with aSrc := 0xFFFD, aLen := 3 }
     s.aLen = 0#64 ∨ s.aSrc.toNat + s.aLen.toNat ≤ s.cfg.memBytes) ∧
    (let s := { blank with aSrc := 0xFFFE, aLen := 3 }
     ¬(s.aLen = 0#64 ∨ s.aSrc.toNat + s.aLen.toNat ≤ s.cfg.memBytes)) := by decide

theorem witness_ReferenceMaskByteFormula : 0 < hello.length ∧ 4 < hello.length := by decide

theorem witness_DispatchChangesNoResult : exec (.mask 0) (buffered 0x4 hello) = .next (after (.mask 0) (buffered 0x4 hello)) :=
  rfl

theorem witness_PipelineSplitsSliceAtLaneBoundaries : 0 < laneBytes 0#2 ∧ 63 < laneBytes 3#2 := by decide

theorem witness_MaskTwiceRestoresMemory :
    let s := { buffered 0x4 hello with key := 0x37FA213D }
    exec (.mask 0) s = .next (after (.mask 0) s) ∧
      exec (.mask 0) (after (.mask 0) s) = .next (after (.mask 0) (after (.mask 0) s)) := ⟨rfl, rfl⟩

/-- M-1 split as M-3 splits it, and a split at the top of the window. -/
theorem witness_MaskPhaseChains :
    (let s := { buffered 0x4 hello with key := 0x37FA213D }
     let t := after (.mask 0) { s with aLen := 2 }
     s.aSrc.toNat + (2#64).toNat + (3#64).toNat ≤ s.cfg.memBytes ∧ (2#64).toNat + (3#64).toNat < 2 ^ 64 ∧
       exec (.mask 0) { s with aLen := 2 } = .next t ∧
       exec (.mask t.maskPhase.toNat) { t with aSrc := s.aSrc + 2, aLen := 3 } =
         .next (after (.mask t.maskPhase.toNat) { t with aSrc := s.aSrc + 2, aLen := 3 }) ∧
       exec (.mask 0) { s with aLen := 2 + 3 } = .next (after (.mask 0) { s with aLen := 2 + 3 })) ∧
    (let s := { blank with aSrc := 0xFFFE }
     s.aSrc.toNat + (1#64).toNat + (1#64).toNat ≤ s.cfg.memBytes) := by
  refine ⟨⟨by decide, by decide, rfl, rfl, rfl⟩, by decide⟩

theorem witness_MaskWithoutLengthOrKeyChangesNoByte :
    exec (.mask 3) { blank with key := 1 } = .next (after (.mask 3) { blank with key := 1 }) ∧
      { blank with key := 1 }.aLen = 0#64 ∧
      exec (.mask 0) (buffered 0x4 hello) = .next (after (.mask 0) (buffered 0x4 hello)) ∧
      (buffered 0x4 hello).key = 0#32 := ⟨rfl, rfl, rfl, rfl⟩

/-- No byte and one byte; a header short of its length bytes; short of its key; short of its payload by one byte. -/
theorem witness_ParseAsksForTheMissingBytes :
    (let s := buffered 0x5 []
     s.inRange s.aSrc.toNat s.aLen.toNat = true ∧ s.aLen.toNat < 2) ∧
    (let s := buffered 0x5 [0x81]
     s.inRange s.aSrc.toNat s.aLen.toNat = true ∧ s.aLen.toNat < 2) ∧
    (let s := buffered 0x5 [0x81, 0xFE, 0x01]
     s.inRange s.aSrc.toNat s.aLen.toNat = true ∧ 2 ≤ s.aLen.toNat ∧ byte0Accepted s.ctrl (byte0 s) ∧
       roleAccepted s.ctrl (masked s) ∧ s.aLen.toNat < 2 + ext s) ∧
    (let s := buffered 0x5 [0x81, 0x85, 0x37, 0xFA]
     byte0Accepted s.ctrl (byte0 s) ∧ roleAccepted s.ctrl (masked s) ∧ 2 + ext s ≤ s.aLen.toNat ∧
       lengthFormAccepted s ∧ lengthAccepted s ((byte0 s).extractLsb' 0 4) ∧ s.aLen.toNat < hdrLen s) ∧
    (let s := buffered 0x5 [0x81, 0x82, 0x37, 0xFA, 0x21, 0x3D, 0x7F]
     byte0Accepted s.ctrl (byte0 s) ∧ roleAccepted s.ctrl (masked s) ∧ 2 + ext s ≤ s.aLen.toNat ∧
       lengthFormAccepted s ∧ lengthAccepted s ((byte0 s).extractLsb' 0 4) ∧ hdrLen s ≤ s.aLen.toNat ∧
       s.aLen.toNat < hdrLen s + frameLen s) := by
  unfold byte0Accepted roleAccepted lengthFormAccepted lengthAccepted isKnown isControl
  refine ⟨?_, ?_, ?_, ?_, ?_⟩ <;> decide

/-- The reserved opcodes at the ends of their two ranges, a control frame without FIN, an unclaimed RSV bit. -/
theorem witness_ParseChecksByteZeroInOrder :
    (let s := buffered 0x5 [0xC3, 0x80]
     s.inRange s.aSrc.toNat s.aLen.toNat = true ∧ 2 ≤ s.aLen.toNat ∧ (byte0 s).extractLsb' 0 4 = 3#4) ∧
    (byte0 (buffered 0x5 [0x0F, 0x80])).extractLsb' 0 4 = 15#4 ∧
    (isControl ((byte0 (buffered 0x4 [0x08, 0x80])).extractLsb' 0 4) ∧
      (byte0 (buffered 0x4 [0x08, 0x80])).getLsbD 7 = false) ∧
    (let s := buffered 0x7 [0x92, 0x00]
     let op := (byte0 s).extractLsb' 0 4
     isKnown op ∧ (isControl op → (byte0 s).getLsbD 7 = true) ∧
       byte0 s &&& 0x70#8 &&& ~~~ (s.ctrl.toWord.extractLsb' 0 8 &&& 0x70#8) ≠ 0#8) := by
  unfold isKnown isControl
  decide

/-- W2a at a server, W3b at a client. -/
theorem witness_ParseChecksMaskingByRole :
    (let s := buffered 0x5 [0x81, 0x05]
     s.inRange s.aSrc.toNat s.aLen.toNat = true ∧ 2 ≤ s.aLen.toNat ∧ byte0Accepted s.ctrl (byte0 s) ∧
       s.ctrl.server = true ∧ masked s = false ∧ s.ctrl.acceptUnmasked = false) ∧
    (let s := buffered 0x4 [0x81, 0x85]
     s.inRange s.aSrc.toNat s.aLen.toNat = true ∧ 2 ≤ s.aLen.toNat ∧ byte0Accepted s.ctrl (byte0 s) ∧
       s.ctrl.server = false ∧ masked s = true) := by
  unfold byte0Accepted isKnown isControl
  decide

/-- P-E-1 (2^63), P-E-2 (125 in the 126 form), P-E-3 (65535 in the 127 form), P-E-7 (126 in a Close) and P-E-12. -/
theorem witness_ParseChecksLengthInOrder :
    (let s := buffered 0x7 [0x81, 0x7F, 0x80, 0, 0, 0, 0, 0, 0, 0]
     s.inRange s.aSrc.toNat s.aLen.toNat = true ∧ 2 + ext s ≤ s.aLen.toNat ∧ byte0Accepted s.ctrl (byte0 s) ∧
       roleAccepted s.ctrl (masked s) ∧ ext s = 8 ∧ 2 ^ 63 ≤ frameLen s) ∧
    (let s := buffered 0x7 [0x81, 0x7E, 0x00, 0x7D]
     byte0Accepted s.ctrl (byte0 s) ∧ roleAccepted s.ctrl (masked s) ∧ s.ctrl.strictLen = true ∧ ext s = 2 ∧
       frameLen s < 126) ∧
    (let s := buffered 0x7 [0x82, 0x7F, 0, 0, 0, 0, 0, 0, 0xFF, 0xFF]
     byte0Accepted s.ctrl (byte0 s) ∧ roleAccepted s.ctrl (masked s) ∧ s.ctrl.strictLen = true ∧ ext s = 8 ∧
       frameLen s < 65536) ∧
    (let s := buffered 0x7 [0x88, 0x7E, 0x00, 0x7E]
     byte0Accepted s.ctrl (byte0 s) ∧ roleAccepted s.ctrl (masked s) ∧ lengthFormAccepted s ∧
       isControl ((byte0 s).extractLsb' 0 4) ∧ 125 < frameLen s) ∧
    (let s := { buffered 0x7 [0x82, 0x7E, 0x01, 0x00] with maxFrame := 0xFF }
     byte0Accepted s.ctrl (byte0 s) ∧ roleAccepted s.ctrl (masked s) ∧ lengthFormAccepted s ∧
       (isControl ((byte0 s).extractLsb' 0 4) → frameLen s ≤ 125) ∧ s.maxFrame.toNat < frameLen s) := by
  unfold byte0Accepted roleAccepted lengthFormAccepted isKnown isControl
  refine ⟨?_, ?_, ?_, ?_, ?_⟩ <;> decide

/-- W3 with each Z, an empty payload, and each data and control frame but Close. -/
theorem witness_AcceptedFrameIsDelivered :
    (let s := buffered 0x5 maskedHello
     frameAccepted s (byte0 s) ∧ (byte0 s).extractLsb' 0 4 ≠ 8#4 ∧ placeAccepted s true ∧ placeAccepted s false) ∧
    (let s := buffered 0x7 [0x80, 0x00]
     frameAccepted s (frameByte0 true false false false 0x0#4) ∧ placeAccepted s (s.cmd.getLsbD 8)) ∧
    frameAccepted (buffered 0x7 [0x81, 0x00]) (frameByte0 true false false false 0x1#4) ∧
    frameAccepted (buffered 0x7 [0x82, 0x00]) (frameByte0 true false false false 0x2#4) ∧
    frameAccepted (buffered 0x7 [0x89, 0x00]) (frameByte0 true false false false 0x9#4) ∧
    frameAccepted (buffered 0x7 [0x8A, 0x00]) (frameByte0 true false false false 0xA#4) := by
  unfold frameAccepted placeAccepted byte0Accepted roleAccepted lengthFormAccepted lengthAccepted isKnown isControl
  refine ⟨?_, ?_, ?_, ?_, ?_, ?_⟩ <;> decide

/-- P-OK-5 and P-OK-7. -/
theorem witness_CloseFrameIsDecoded :
    (let s := buffered 0x7 [0x88, 0x00]
     (byte0 s).extractLsb' 0 4 = 8#4 ∧ frameAccepted s (byte0 s) ∧ placeAccepted s true ∧ frameLen s = 0) ∧
    (let s := buffered 0x7 [0x88, 0x04, 0x03, 0xE9, 0x6F, 0x6B]
     frameByte0 true false false false 0x8#4 = byte0 s ∧ frameAccepted s (byte0 s) ∧ placeAccepted s true ∧
       plainPayload s = 0x03#8 :: 0xE9#8 :: [0x6F#8, 0x6B#8]) ∧
    validUtf8 [0x6F#8, 0x6B#8] := by
  refine ⟨?_, ?_, [[0x6F#8], [0x6B#8]], ?_, rfl⟩
  · unfold frameAccepted placeAccepted byte0Accepted roleAccepted lengthFormAccepted lengthAccepted isKnown isControl
    decide
  · unfold frameAccepted placeAccepted byte0Accepted roleAccepted lengthFormAccepted lengthAccepted isKnown isControl
    decide
  · intro q hq
    simp only [List.mem_cons, List.not_mem_nil, or_false] at hq
    rcases hq with rfl | rfl <;> unfold wellFormedSequence within <;> decide

/-- P-E-8, P-E-9 and P-E-10. -/
theorem witness_CloseFrameErrors :
    (let s := buffered 0x7 [0x88, 0x01, 0x03]
     (byte0 s).extractLsb' 0 4 = 8#4 ∧ frameAccepted s (byte0 s) ∧ frameLen s = 1) ∧
    (let s := buffered 0x7 [0x88, 0x04, 0x03, 0xE8, 0xC3, 0x28]
     (byte0 s).extractLsb' 0 4 = 8#4 ∧ frameAccepted s (byte0 s) ∧
       plainPayload s = 0x03#8 :: 0xE8#8 :: ([0xC3#8] ++ 0x28#8 :: []) ∧ runUtf8 .accept [0xC3#8] ≠ .reject ∧
       delta (runUtf8 .accept [0xC3#8]) 0x28#8 = .reject) ∧
    (let s := buffered 0x7 [0x88, 0x03, 0x03, 0xE8, 0xC3]
     (byte0 s).extractLsb' 0 4 = 8#4 ∧ frameAccepted s (byte0 s) ∧ plainPayload s = 0x03#8 :: 0xE8#8 :: [0xC3#8] ∧
       runUtf8 .accept [0xC3#8] ≠ .accept ∧ runUtf8 .accept [0xC3#8] ≠ .reject) := by
  unfold frameAccepted byte0Accepted roleAccepted lengthFormAccepted lengthAccepted isKnown isControl
  refine ⟨?_, ?_, ?_⟩ <;> decide

/-- P-E-14. -/
theorem witness_ParseDestinationOutOfRange :
    let s := { buffered 0x7 [0x82, 0x03, 0x01, 0x02, 0x03] with aDst := 0xFFFE }
    frameAccepted s (byte0 s) ∧ s.inRange s.aDst.toNat (frameLen s) = false ∧ (byte0 s).extractLsb' 0 4 ≠ 8#4 := by
  unfold frameAccepted byte0Accepted roleAccepted lengthFormAccepted lengthAccepted isKnown isControl
  decide

/-- P-OK-1: two frames are buffered, and the second one's byte differs. -/
theorem witness_ParseDependsOnlyOnTheFrame :
    let s := buffered 0x7 [0x89, 0x00, 0x8A, 0x00]
    (∀ x, x < min s.aLen.toNat (hdrLen s + frameLen s) →
      (s.mem.write 0x102 0xFF).read (s.aSrc.toNat + x) = s.mem.read (s.aSrc.toNat + x)) ∧
      (s.mem.write 0x102 0xFF).read 0x102 ≠ s.mem.read 0x102 := by decide

/-- P-NM-4, then P-NM-5. -/
theorem witness_NeedMoreMakesProgress :
    let s := buffered 0x7 [0x81, 0x7E]
    let t := after (.parse true) s
    let m := (s.mem.write 0x102 0x01).write 0x103 0x00
    let u := after (.parse true) { s with mem := m, aLen := 4 }
    exec (.parse true) s = .next t ∧ t.status.result = .needMore ∧
      (∀ x, x < s.aLen.toNat → m.read (s.aSrc.toNat + x) = s.mem.read (s.aSrc.toNat + x)) ∧
      s.aLen.toNat + t.rxNeed.toNat ≤ (4#64).toNat ∧ exec (.parse true) { s with mem := m, aLen := 4 } = .next u ∧
      u.status.result = .needMore := by
  refine ⟨rfl, by decide, by decide, by decide, rfl, by decide⟩

/-- W8: "Hello" from a client; and the empty payload of a Close from a server. -/
theorem witness_SerializeThenParseRoundTrip :
    (let s := outbound 0x4 0x81 hello 0x37FA213D
     txHeaderAccepted s.ctrl s.txHdr s.aLen.toNat ∧ s.aLen.toNat ≤ s.maxFrame.toNat ∧
       s.txHdr.extractLsb' 0 4 ≠ 8#4 ∧ s.inRange 0x600 s.aLen.toNat = true ∧
       exec (.ser (!s.ctrl.server)) s = .next (after (.ser true) s) ∧ (after (.ser true) s).status.result = .ok) ∧
    (let s := outbound 0x5 0x88 [] 0
     txHeaderAccepted s.ctrl s.txHdr s.aLen.toNat ∧ s.slice = [] ∧
       exec (.ser (!s.ctrl.server)) s = .next (after (.ser false) s) ∧ (after (.ser false) s).status.result = .ok) := by
  unfold txHeaderAccepted byte0Accepted isKnown isControl
  exact ⟨⟨by decide, by decide, by decide, by decide, rfl, by decide⟩, by decide, by decide, rfl, by decide⟩

/-- S-2, and S-17a: the output ends at the end of the window. -/
theorem witness_SerEmitsTheFrame :
    (let s := outbound 0x4 0x81 hello 0x37FA213D
     txHeaderAccepted s.ctrl s.txHdr s.aLen.toNat ∧ txRoleAccepted s.ctrl true ∧
       s.inRange s.aSrc.toNat s.aLen.toNat = true ∧
       s.aDst.toNat + (txLen true s.aLen.toNat + s.aLen.toNat) ≤ s.cfg.memBytes) ∧
    (let s := { outbound 0x5 0x82 [1, 2, 3, 4] 0 with aDst := 0xFFFA }
     txHeaderAccepted s.ctrl s.txHdr s.aLen.toNat ∧ txRoleAccepted s.ctrl false ∧
       s.inRange s.aSrc.toNat s.aLen.toNat = true ∧
       s.aDst.toNat + (txLen false s.aLen.toNat + s.aLen.toNat) ≤ s.cfg.memBytes) := by
  unfold txHeaderAccepted txRoleAccepted byte0Accepted isKnown isControl
  decide

/-- S-8, S-7, a Ping of 126 bytes, S-9 and S-15. -/
theorem witness_SerChecksHeaderInOrder :
    (outbound 0x5 0x8B [] 0).txHdr.extractLsb' 0 4 = 11#4 ∧
    (isControl ((outbound 0x5 0x09 [] 0).txHdr.extractLsb' 0 4) ∧ (outbound 0x5 0x09 [] 0).txHdr.getLsbD 7 = false) ∧
    (let s := { outbound 0x5 0x89 [] 0 with aLen := 126 }
     isControl (s.txHdr.extractLsb' 0 4) ∧ s.txHdr.getLsbD 7 = true ∧ 125 < s.aLen.toNat) ∧
    (let s := outbound 0x5 0xC1 [0x61] 0
     isKnown (s.txHdr.extractLsb' 0 4) ∧ ¬isControl (s.txHdr.extractLsb' 0 4) ∧
       s.txHdr &&& 0x70#8 &&& ~~~ (s.ctrl.toWord.extractLsb' 0 8 &&& 0x70#8) ≠ 0#8) ∧
    (let s := { outbound 0x5 0x82 [] 0 with aLen := 0x8000000000000000 }
     isKnown (s.txHdr.extractLsb' 0 4) ∧ ¬isControl (s.txHdr.extractLsb' 0 4) ∧
       s.txHdr &&& 0x70#8 &&& ~~~ (s.ctrl.toWord.extractLsb' 0 8 &&& 0x70#8) = 0#8 ∧ 2 ^ 63 ≤ s.aLen.toNat) := by
  unfold isKnown isControl
  decide

/-- S-3 and S-4. -/
theorem witness_SerChecksMaskingByRole :
    (let s := outbound 0x4 0x81 hello 0
     txHeaderAccepted s.ctrl s.txHdr s.aLen.toNat ∧ s.ctrl.server = false) ∧
    (let s := outbound 0x5 0x81 hello 0
     txHeaderAccepted s.ctrl s.txHdr s.aLen.toNat ∧ s.ctrl.server = true) := by
  unfold txHeaderAccepted byte0Accepted isKnown isControl
  decide

/-- S-16 and S-17. -/
theorem witness_SerChecksBothRanges :
    (let s := { outbound 0x5 0x82 [] 0 with aSrc := 0, aLen := 0x20000 }
     txHeaderAccepted s.ctrl s.txHdr s.aLen.toNat ∧ txRoleAccepted s.ctrl false ∧
       s.inRange s.aSrc.toNat s.aLen.toNat = false) ∧
    (let s := { outbound 0x5 0x82 [1, 2, 3, 4] 0 with aDst := 0xFFFB }
     txHeaderAccepted s.ctrl s.txHdr s.aLen.toNat ∧ txRoleAccepted s.ctrl false ∧
       s.inRange s.aSrc.toNat s.aLen.toNat = true ∧
       s.cfg.memBytes < s.aDst.toNat + (txLen false s.aLen.toNat + s.aLen.toNat)) := by
  unfold txHeaderAccepted txRoleAccepted byte0Accepted isKnown isControl
  decide

theorem witness_SerializedFrameConformsToRole :
    let s := outbound 0x4 0x81 hello 0x37FA213D
    exec (.ser true) s = .next (after (.ser true) s) ∧ (after (.ser true) s).status.result = .ok := ⟨rfl, by decide⟩

/-- A byte at the ends of the rows of the table. -/
theorem witness_Utf8TransitionTable :
    (0x7F#8).toNat ≤ 0x7F ∧ (0x80 ≤ (0xC1#8).toNat ∧ (0xC1#8).toNat ≤ 0xC1) ∧
      (0xC2 ≤ (0xDF#8).toNat ∧ (0xDF#8).toNat ≤ 0xDF) ∧ (0xE0#8).toNat = 0xE0 ∧
      (0xE1 ≤ (0xEC#8).toNat ∧ (0xEC#8).toNat ≤ 0xEC) ∧ (0xED#8).toNat = 0xED ∧
      (0xEE ≤ (0xEE#8).toNat ∧ (0xEE#8).toNat ≤ 0xEF) ∧ (0xF0#8).toNat = 0xF0 ∧
      (0xF1 ≤ (0xF3#8).toNat ∧ (0xF3#8).toNat ≤ 0xF3) ∧ (0xF4#8).toNat = 0xF4 ∧ 0xF5 ≤ (0xF5#8).toNat := by decide

/-- Out of range; sticky; to the slice's end; and a first rejecting byte (U-4). -/
theorem witness_FeedValidator :
    (let s := { blank with aSrc := 0xFFFF, aLen := 2 }
     s.inRange s.aSrc.toNat s.aLen.toNat = false) ∧
    (let s := { buffered 0x5 [0x41] with u8State := .reject }
     s.inRange s.aSrc.toNat s.aLen.toNat = true ∧ s.u8State = .reject) ∧
    (let s := buffered 0x5 [0xE2, 0x82]
     s.inRange s.aSrc.toNat s.aLen.toNat = true ∧ runUtf8 s.u8State s.slice ≠ .reject) ∧
    (let s := buffered 0x5 [0xED, 0xA0, 0x80]
     s.inRange s.aSrc.toNat s.aLen.toNat = true ∧ s.slice = [0xED#8] ++ 0xA0#8 :: [0x80#8] ∧
       runUtf8 s.u8State [0xED#8] ≠ .reject ∧ delta (runUtf8 s.u8State [0xED#8]) 0xA0#8 = .reject) := by decide

theorem witness_FinishValidator : blank.u8State = .accept ∧ { blank with u8State := .t1 }.u8State ≠ .accept := by decide

/-- U-1's split of a sequence. -/
theorem witness_FeedingInPartsIsFeedingWhole :
    let s := buffered 0x5 [0xE2, 0x82, 0xAC]
    let t := after .u8feed { s with aLen := 1 }
    s.aSrc.toNat + (1#64).toNat + (2#64).toNat ≤ s.cfg.memBytes ∧ (1#64).toNat + (2#64).toNat < 2 ^ 64 ∧
      exec .u8feed { s with aLen := 1 } = .next t ∧
      exec .u8feed { t with aSrc := s.aSrc + 1, aLen := 2 } =
        .next (after .u8feed { t with aSrc := s.aSrc + 1, aLen := 2 }) ∧
      exec .u8feed { s with aLen := 1 + 2 } = .next (after .u8feed { s with aLen := 1 + 2 }) := by
  refine ⟨by decide, by decide, rfl, rfl, rfl⟩

/-- A valid and an invalid slice. -/
theorem witness_ValidatorVerdictIsUtf8 :
    (let s := buffered 0x5 [0xE2, 0x82, 0xAC]
     let a := after .u8rst s
     let b := after .u8feed a
     s.inRange s.aSrc.toNat s.aLen.toNat = true ∧ exec .u8rst s = .next a ∧ exec .u8feed a = .next b ∧
       exec .u8fin b = .next (after .u8fin b) ∧ (after .u8fin b).status.result = .ok) ∧
    (let s := buffered 0x5 [0xFF]
     let a := after .u8rst s
     let b := after .u8feed a
     s.inRange s.aSrc.toNat s.aLen.toNat = true ∧ exec .u8rst s = .next a ∧ exec .u8feed a = .next b ∧
       exec .u8fin b = .next (after .u8fin b) ∧ (after .u8fin b).status.result = .error) := by
  exact ⟨⟨by decide, rfl, rfl, rfl, by decide⟩, by decide, rfl, rfl, rfl, by decide⟩

theorem witness_RejectSurvivesUntilReset :
    let s := { buffered 0x5 [0x41] with u8State := .reject }
    s.u8State = .reject ∧ exec .u8feed s = .next (after .u8feed s) := ⟨rfl, rfl⟩

/-- Each premise on a register offset, at both ends of the list. -/
theorem witness_ResetValuesOfEveryRegister :
    blank = State.powerOn testParams [] ∧ (blank.regRead 0x028 = 0#64 ∧ blank.regRead 0x0C0 = 0#64) :=
  ⟨rfl, by decide⟩

theorem witness_StepKeepsInvariant :
    inv (blank.issue 0x20) = true ∧ step (blank.issue 0x20) = .next (stepped (blank.issue 0x20)) := ⟨by decide, rfl⟩

theorem witness_StepKeepsParameters : step (blank.issue 0x20) = .next (stepped (blank.issue 0x20)) := rfl

/-- The last register offset of the space, an offset that is not CMD's, the first reserved offset, and an idle block for each
RESULT. -/
theorem witness_RegisterWriteReadsBack :
    (0x0F8 : Nat) % 8 = 0 ∧ 0x0F8 < 0x100 ∧ blank.status.busy = false ∧ (0x010 : Nat) ≠ 0x028 ∧ (0x0C8 : Nat) ≤ 0x0C8 ∧
      (let s := after (.parse true) (buffered 0x7 [0x81])
       s.status.busy = false ∧ s.status.result = .needMore) ∧
      (let s := after (.parse true) (buffered 0x7 [0x83, 0x00])
       s.status.busy = false ∧ s.status.result = .error) := by decide

theorem witness_AcceptedCmdWriteIssues : blank.status.busy = false ∧ (blank.issue 0x20).status.busy = true := by decide

theorem witness_ReadsWhileBusy : (blank.issue 0x20).status.busy = true ∧ (0x0C8 : Nat) ≤ 0x0C8 ∧ 0x0F8 % 8 = 0 ∧ 0x0F8 < 0x100 := by
  decide

/-- Another width, another alignment, and the first offset beyond the register space. -/
theorem witness_OtherRegisterAccessesAreRefused :
    (4 : Nat) ≠ 8 ∧ (0x014 : Nat) % 8 ≠ 0 ∧ (0x100 : Nat) % 8 = 0 ∧ 0x100 ≤ 0x100 := by decide

/-- The last byte of the window and the first address beyond it. -/
theorem witness_HostReadsBackWhatItWrote :
    blank.status.busy = false ∧ 0xFFFF < blank.cfg.memBytes ∧ blank.cfg.memBytes ≤ 0x10000 := by decide

/-- The last byte of a pending U8FEED's slice, and the byte after it. -/
theorem witness_HostKeepsAwayFromARunningCommand :
    let s := pendingWith 0x021 [] []
    s.status.busy = true ∧ decodeCommand s.cmd = .ok .u8feed ∧ 0x102 < s.cfg.memBytes ∧
      (∃ r ∈ s.readRanges .u8feed ++ s.writeRanges .u8feed, r.start ≤ 0x101 ∧ 0x101 < r.start + r.len) ∧
      (∀ r ∈ s.readRanges .u8feed ++ s.writeRanges .u8feed, ¬(r.start ≤ 0x102 ∧ 0x102 < r.start + r.len)) := by
  refine ⟨rfl, rfl, by decide, ⟨⟨0x100, 2⟩, by decide, by decide⟩, by decide⟩

/-- With no command pending, and a byte outside the write range of a pending MASK. -/
theorem witness_ResetEventClearsTheBlock :
    blank.status.busy = false ∧
      (let s := pendingWith 0x001 [] []
       decodeCommand s.cmd = .ok (.mask 0) ∧
         ∀ r ∈ s.writeRanges (.mask 0), ¬(r.start ≤ 0x102 ∧ 0x102 < r.start + r.len)) := by
  refine ⟨rfl, rfl, by decide⟩

theorem witness_OnlyCompletionOrResetEndsACommand :
    let s := pendingWith 0x021 [] []
    s.status.busy = true ∧ step s = .next (stepped s) ∧ (stepped s).status.busy = false := ⟨rfl, rfl, by decide⟩

theorem witness_PendingCommandEnds : (pendingWith 0x021 [.poll, .poll] [.host]).status.busy = true := rfl

end Sys2Proof.Tests
end

/-! PROOFS of the family 40_command_issue.md. -/
section
namespace Sys2Proof.Machine

/-- While `BUSY` = 1 a write at any offset is ignored (R121). -/
theorem State.regWrite_of_busy {s : State} (off : Nat) (v : Word) (h : s.status.busy = true) : s.regWrite off v = s := by
  rw [State.regWrite, if_pos h]

/-- While `BUSY` = 0 a write at a register's own offset is that register's write. -/
theorem State.regWrite_offset_of_idle {s : State} (r : Reg) (v : Word) (h : s.status.busy = false) :
    s.regWrite r.offset v = s.writeReg r v := by
  simp only [State.regWrite, h, Bool.false_eq_true, if_false, regAt_offset]

/-- While `BUSY` = 0 a write of `CMD` issues the word (R121). -/
theorem State.regWrite_cmd_of_idle {s : State} (v : Word) (h : s.status.busy = false) :
    s.regWrite 0x028 v = s.issue v :=
  State.regWrite_offset_of_idle .cmd v h

/-- Settles O53: the `CMD` offset is the issuing register's, and the `BUSY` guard stands before every register. -/
theorem acceptedCmdWriteIssues : Obligations.AcceptedCmdWriteIssues := fun _ v =>
  ⟨State.regWrite_cmd_of_idle v, fun off => State.regWrite_of_busy off v⟩

end Sys2Proof.Machine
end

/-! PROOFS of the family 41_mask.md. -/
section
namespace Sys2Proof.Machine

/-! ## Nothing a command computes depends on the masking path (R141) -/

/-- A choice of `DISPATCH.SEL` and of which SIMD paths exist. -/
structure PathChoice where
  sel : BitVec 2
  hasV128 : Bool
  hasV256 : Bool
  hasV512 : Bool

/-- The state with another choice of masking paths, and every other field as it was. -/
def State.onPath (s : State) (d : PathChoice) : State :=
  { s with
    sel := d.sel
    cfg := { s.cfg with hasV128 := d.hasV128, hasV256 := d.hasV256, hasV512 := d.hasV512 } }

@[simp] theorem State.onPath_ctrl (s : State) (d : PathChoice) : (s.onPath d).ctrl = s.ctrl := rfl
@[simp] theorem State.onPath_maxFrame (s : State) (d : PathChoice) : (s.onPath d).maxFrame = s.maxFrame := rfl
@[simp] theorem State.onPath_aSrc (s : State) (d : PathChoice) : (s.onPath d).aSrc = s.aSrc := rfl
@[simp] theorem State.onPath_aDst (s : State) (d : PathChoice) : (s.onPath d).aDst = s.aDst := rfl
@[simp] theorem State.onPath_aLen (s : State) (d : PathChoice) : (s.onPath d).aLen = s.aLen := rfl
@[simp] theorem State.onPath_key (s : State) (d : PathChoice) : (s.onPath d).key = s.key := rfl
@[simp] theorem State.onPath_txHdr (s : State) (d : PathChoice) : (s.onPath d).txHdr = s.txHdr := rfl
@[simp] theorem State.onPath_u8State (s : State) (d : PathChoice) : (s.onPath d).u8State = s.u8State := rfl
@[simp] theorem State.onPath_slice (s : State) (d : PathChoice) : (s.onPath d).slice = s.slice := rfl

/-- The size of the window is no matter of the path. -/
@[simp] theorem State.onPath_inRange (s : State) (d : PathChoice) (a n : Nat) :
    (s.onPath d).inRange a n = s.inRange a n := rfl

/-- The masking inside PARSE and SER is the reference's on every path. -/
@[simp] theorem State.onPath_maskPayload (s : State) (d : PathChoice) (masked : Bool) (k : BitVec 32) (a : Nat)
    (bs : List Byte) : (s.onPath d).maskPayload masked k a bs = s.maskPayload masked k a bs := by
  rw [State.maskPayload_eq, State.maskPayload_eq]

/-- The placement looks at the path nowhere: one case per destination of R167. -/
theorem State.placePayload_onPath (s : State) (d : PathChoice) (z : Bool) (h : FrameHeader) (p : List Byte)
    (close : RxClose) : (s.onPath d).placePayload z h p close = (s.placePayload z h p close).onPath d := by
  cases z with
  | true => rfl
  | false => cases hd : s.inRange s.aDst.toNat h.len <;> simp [State.placePayload, hd] <;> rfl

/-- The unmasked payload is the same on every path, and so is what its Close decode answers. -/
theorem State.parsePayload_onPath (s : State) (d : PathChoice) (z : Bool) (buf : List Byte) (h : FrameHeader) :
    (s.onPath d).parsePayload z buf h = (s.parsePayload z buf h).onPath d := by
  simp only [State.parsePayload, State.onPath_maskPayload, State.onPath_aSrc, State.placePayload_onPath]
  cases rxCloseOf (frameOpcode h.b0) (s.maskPayload (maskBit h.b1) h.key (s.aSrc.toNat + h.hdrLen)
    ((buf.drop h.hdrLen).take h.len)) <;> rfl

theorem State.parseBuffer_onPath (s : State) (d : PathChoice) (z : Bool) (buf : List Byte) :
    (s.onPath d).parseBuffer z buf = (s.parseBuffer z buf).onPath d := by
  simp only [State.parseBuffer, State.onPath_inRange, State.onPath_aSrc, State.onPath_aLen, State.onPath_ctrl,
    State.onPath_maxFrame, State.parsePayload_onPath]
  cases s.inRange s.aSrc.toNat s.aLen.toNat with
  | false => rfl
  | true =>
    simp only [if_true]
    match parseHeader s.ctrl s.maxFrame buf with
    | .error (.needMore _) => rfl
    | .error (.error _) => rfl
    | .ok _ => rfl

theorem execMask_onPath {s t : State} {p : Nat} (d : PathChoice) (h : execMask p s = .next t) :
    execMask p (s.onPath d) = .next (t.onPath d) := by
  cases hr : s.inRange s.aSrc.toNat s.aLen.toNat with
  | false => rw [execMask_out s p hr] at h; cases h; exact execMask_out (s.onPath d) p hr
  | true => rw [execMask_in s p hr] at h; cases h; exact execMask_in (s.onPath d) p hr

/-- Each end of SER, with the conditions that lead to it, is the same on every path. -/
theorem execSer_onPath {s t : State} {m : Bool} (d : PathChoice) (h : execSer m s = .next t) :
    execSer m (s.onPath d) = .next (t.onPath d) := by
  rcases execSer_cases s m with ⟨e, hc, he⟩ | ⟨hc, ⟨h1, he⟩ | ⟨h1, h2, he⟩ | ⟨h1, h2, he⟩⟩
  all_goals
    rw [he] at h
    cases h
    simp [execSer, *]
    rfl

/-- The validator masks nothing: each end of U8FEED looks only at fields the path leaves alone. -/
theorem execU8feed_onPath {s t : State} (d : PathChoice) (h : execU8feed s = .next t) :
    execU8feed (s.onPath d) = .next (t.onPath d) := by
  simp only [execU8feed, State.onPath_inRange, State.onPath_aSrc, State.onPath_aLen, State.onPath_u8State,
    State.onPath_slice] at h ⊢
  repeat' split at h
  all_goals
    cases h
    simp only [*]
    rfl

theorem execU8fin_onPath {s t : State} (d : PathChoice) (h : execU8fin s = .next t) :
    execU8fin (s.onPath d) = .next (t.onPath d) := by
  simp only [execU8fin, State.onPath_u8State] at h ⊢
  split at h <;> cases h <;> simp only [*] <;> rfl

/-- What a command does, it does on every path. -/
theorem exec_onPath {i : Instr} {s t : State} (d : PathChoice) (h : exec i s = .next t) :
    exec i (s.onPath d) = .next (t.onPath d) := by
  have codec (b : Byte) (hb : encode i = .frameByte0 b) : exec i (s.onPath d) = .next (t.onPath d) := by
    rw [exec_of_frameByte0 hb] at h ⊢
    cases h
    exact congrArg _ (State.parseBuffer_onPath s d s.pendingZ (withByte0 b s.slice))
  cases i with
  | mask p => exact execMask_onPath d h
  | parse z => cases h; exact congrArg _ (State.parseBuffer_onPath s d z s.slice)
  | ser m => exact execSer_onPath d h
  | u8rst => cases h; rfl
  | u8feed => exact execU8feed_onPath d h
  | u8fin => exact execU8fin_onPath d h
  | frameContinuation f a b c => exact codec _ rfl
  | frameText f a b c => exact codec _ rfl
  | frameBinary f a b c => exact codec _ rfl
  | frameClose f a b c => exact codec _ rfl
  | framePing f a b c => exact codec _ rfl
  | framePong f a b c => exact codec _ rfl

/-! ## A register read under another `DISPATCH.SEL` -/

/-- A register stands at its own offset only. -/
theorem offset_of_regAt {off : Nat} {r : Reg} (h : regAt off = some r) : r.offset = off := by
  simpa using List.find?_some h

/-- Every register but `DISPATCH` holds the same value whatever path is selected. -/
theorem State.regValue_sel (s : State) (sel : BitVec 2) {r : Reg} (h : r ≠ .dispatch) :
    { s with sel := sel }.regValue r = s.regValue r := by
  cases r with
  | dispatch => contradiction
  | _ => rfl

theorem State.regRead_sel (s : State) (sel : BitVec 2) {off : Nat} (h : off ≠ 0x018) :
    { s with sel := sel }.regRead off = s.regRead off := by
  unfold State.regRead
  cases hr : regAt off with
  | none => rfl
  | some r =>
    have hd : r ≠ .dispatch := by
      rintro rfl
      exact h (offset_of_regAt hr).symm
    simp only [State.regValue_sel s sel hd]
    rfl

/-- Settles O19: the pipeline is the reference on every path (`State.maskSlice_eq`), and nothing else a command or a register
read uses looks at the path. -/
theorem dispatchChangesNoResult : Obligations.DispatchChangesNoResult :=
  ⟨fun s sel => State.maskSlice_eq { s with sel := sel }, fun s sel _ => State.regRead_sel s sel,
    fun _ _ _ sel v128 v256 v512 => exec_onPath ⟨sel, v128, v256, v512⟩⟩

/-! ## MASK (R142) -/

/-- `InRange` of the slice as R10 says it, in the registers' terms. -/
theorem State.inRange_slice_iff (s : State) :
    s.inRange s.aSrc.toNat s.aLen.toNat = true ↔ s.aLen = 0#64 ∨ s.aSrc.toNat + s.aLen.toNat ≤ s.cfg.memBytes := by
  simp [State.inRange, BitVec.toNat_eq]

/-- Settles O17, by the two ends of MASK: in range and out of range. -/
theorem maskAppliesKeyFromPhase : Obligations.MaskAppliesKeyFromPhase := by
  intro s p
  rw [← State.inRange_slice_iff]
  refine ⟨fun h => ?_, fun h => ?_⟩
  · have hp : BitVec.ofNat 2 (p + s.aLen.toNat) = BitVec.ofNat 2 ((p + s.aLen.toNat) % 4) := by
      apply BitVec.eq_of_toNat_eq
      simp
    rw [← hp]
    exact execMask_in s p h
  · have hout := execMask_out s p (Bool.eq_false_iff.2 h)
    rw [State.raise_eq_endError] at hout
    simp only [boundsFault, BitVec.ofNat_toNat, BitVec.setWidth_eq] at hout
    exact hout

/-! ## The reference byte by byte (R140) -/

/-- Byte i of the reference from phase P uses key byte i + P. -/
theorem maskRef_getElem? (bs : List Byte) (k : BitVec 32) (p i : Nat) :
    (maskRef bs k p)[i]? = bs[i]?.map (· ^^^ keyByte k (i + p)) := by
  induction bs generalizing p i with
  | nil => simp
  | cons b bs ih =>
    cases i with
    | zero => simp
    | succ i => simp [ih, Nat.add_assoc, Nat.add_comm 1 p]

/-- Settles O18: `maskRef_getElem?`, with the key bytes in wire order. -/
theorem referenceMaskByteFormula : Obligations.ReferenceMaskByteFormula := by
  intro bs k p
  refine ⟨maskRef_length bs k p, fun i h => ?_⟩
  rw [maskRef_getElem?, List.getElem?_eq_getElem h, Option.map_some, keyByte_eq_wireKey]

end Sys2Proof.Machine
end

/-! PROOFS of the family 42_frame_parse.md. -/
section
namespace Sys2Proof.Machine

open Sys2Proof.Safety

/-! ## PARSE stopped by its header stage: what the header stage answers is how the command ends -/

theorem exec_parse_of_needMore {s : State} {n : Nat} (z : Bool) (hr : s.inRange s.aSrc.toNat s.aLen.toNat = true)
    (hp : parseHeader s.ctrl s.maxFrame s.slice = .error (.needMore n)) :
    exec (.parse z) s = .next (endNeedMore s n) := by
  rw [exec, execParse, State.parseBuffer, if_pos hr, hp]
  rfl

/-- Once two bytes are present the error is raised on a frame of byte 0's opcode, which decides the close hint (R263). -/
theorem exec_parse_of_error {s : State} {e : CmdError} (z : Bool) (hr : s.inRange s.aSrc.toNat s.aLen.toNat = true)
    (h2 : 2 ≤ s.aLen.toNat) (hp : parseHeader s.ctrl s.maxFrame s.slice = .error (.error e)) :
    exec (.parse z) s = .next (s.parseRaise (.parsedFrame (frameOpcode (byte0 s))) e) := by
  have hsrc : parseSource s.slice = .parsedFrame (frameOpcode (byte0 s)) := by rw [slice_two s h2]; rfl
  rw [exec, execParse, State.parseBuffer, if_pos hr, hp, hsrc]

/-! ## The header stage of the slice, by the first check or count that stops it -/

theorem parseHeader_slice_of_lt_two {s : State} (h : s.aLen.toNat < 2) :
    parseHeader s.ctrl s.maxFrame s.slice = .error (.needMore (2 - s.aLen.toNat)) := by
  obtain h0 | h1 : s.aLen.toNat = 0 ∨ s.aLen.toNat = 1 := by omega
  · rw [State.slice, h0]; rfl
  · rw [State.slice, h1]; rfl

/-- The checks of the first two bytes, R162 before R164. -/
theorem parseHeader_slice_of_two_byte_check {s : State} {e : CmdError} (h2 : 2 ≤ s.aLen.toNat)
    (hc : (checkByte0 s.ctrl (byte0 s)).or (checkRole s.ctrl (byte1 s)) = some e) :
    parseHeader s.ctrl s.maxFrame s.slice = .error (.error e) := by
  rw [slice_two s h2, parseHeader_eq s _ h2, hc]

theorem two_byte_checks_eq_none {s : State} (hb : byte0Accepted s.ctrl (byte0 s))
    (hro : roleAccepted s.ctrl (masked s)) :
    (checkByte0 s.ctrl (byte0 s)).or (checkRole s.ctrl (byte1 s)) = none :=
  Option.or_eq_none_iff.2 ⟨(checkByte0_eq_none _ _).2 hb, (checkRole_eq_none _ _).2 hro⟩

theorem length_checks_eq_none {s : State} (hlf : lengthFormAccepted s)
    (hl : lengthAccepted s (frameOpcode (byte0 s))) :
    (checkLengthForm s.ctrl (len7 (byte1 s)) (frameLen s)).or
      (checkLength s.maxFrame (frameOpcode (byte0 s)) (frameLen s)) = none :=
  Option.or_eq_none_iff.2 ⟨(checkLengthForm_eq_none s).2 hlf, (checkLength_eq_none s _).2 hl⟩

/-- Without the whole length field the count is up to the header's end, the key included. -/
theorem parseHeader_slice_of_lt_ext {s : State} (h2 : 2 ≤ s.aLen.toNat) (hb : byte0Accepted s.ctrl (byte0 s))
    (hro : roleAccepted s.ctrl (masked s)) (hx : s.aLen.toNat < 2 + ext s) :
    parseHeader s.ctrl s.maxFrame s.slice = .error (.needMore (hdrLen s - s.aLen.toNat)) := by
  rw [slice_two s h2, parseHeader_eq s _ h2, two_byte_checks_eq_none hb hro]
  exact if_pos hx

/-- The checks of the length, the two inside `DecodeLength` before `CheckLength` (R163). -/
theorem parseHeader_slice_of_length_check {s : State} {e : CmdError} (hx : 2 + ext s ≤ s.aLen.toNat)
    (hb : byte0Accepted s.ctrl (byte0 s)) (hro : roleAccepted s.ctrl (masked s))
    (hc : (checkLengthForm s.ctrl (len7 (byte1 s)) (frameLen s)).or
      (checkLength s.maxFrame (frameOpcode (byte0 s)) (frameLen s)) = some e) :
    parseHeader s.ctrl s.maxFrame s.slice = .error (.error e) := by
  have h2 : 2 ≤ s.aLen.toNat := by omega
  rw [slice_two s h2, parseHeader_eq s _ h2, two_byte_checks_eq_none hb hro, hc]
  exact if_neg (by omega)

/-- Behind the length checks only the header's end and the frame's end can be missing. -/
theorem parseHeader_slice_of_length_accepted {s : State} (hx : 2 + ext s ≤ s.aLen.toNat)
    (hb : byte0Accepted s.ctrl (byte0 s)) (hro : roleAccepted s.ctrl (masked s)) (hlf : lengthFormAccepted s)
    (hl : lengthAccepted s (frameOpcode (byte0 s))) :
    parseHeader s.ctrl s.maxFrame s.slice =
      if s.aLen.toNat < hdrLen s then .error (.needMore (hdrLen s - s.aLen.toNat))
      else if s.aLen.toNat < hdrLen s + frameLen s then .error (.needMore (hdrLen s + frameLen s - s.aLen.toNat))
      else .ok { b0 := byte0 s, b1 := byte1 s, len := frameLen s, key := frameKey s } := by
  have h2 : 2 ≤ s.aLen.toNat := by omega
  rw [slice_two s h2, parseHeader_eq s _ h2, two_byte_checks_eq_none hb hro, length_checks_eq_none hlf hl]
  exact if_neg (by omega)

/-! ## NEED_MORE (R165) -/

/-- Settles O24: the three points are below two bytes, below the length field's end or the header's end, and below the
frame's end. -/
theorem parseAsksForTheMissingBytes : Obligations.ParseAsksForTheMissingBytes := by
  intro s z hr
  refine ⟨fun h => ?_, fun h2 hb hro => ⟨fun hx => ?_, fun hx hlf hl => ⟨fun hh => ?_, fun hh hf => ?_⟩⟩⟩ <;>
    apply exec_parse_of_needMore z hr
  · exact parseHeader_slice_of_lt_two h
  · exact parseHeader_slice_of_lt_ext h2 hb hro hx
  · rw [parseHeader_slice_of_length_accepted hx hb hro hlf hl, if_pos hh]
  · rw [parseHeader_slice_of_length_accepted hx hb hro hlf hl, if_neg (by omega), if_pos hf]

/-! ## The byte-0 checks (R162) -/

/-- The reserved opcodes of R89 as R162 lists them; the close hint of an error on one is never a Close frame's. -/
theorem reservedFrameOpcode_of_mem (op : BitVec 4)
    (h : op ∈ [3#4, 4#4, 5#4, 6#4, 7#4, 11#4, 12#4, 13#4, 14#4, 15#4]) :
    reservedFrameOpcode op = true ∧ op ≠ 8#4 := by
  revert op
  decide

theorem isKnown_of_isControl {op : BitVec 4} (h : isControl op) : isKnown op := .inr (.inr (.inr h))

theorem checkByte0_of_reserved {c : Ctrl} {b0 : Byte} (h : reservedFrameOpcode (frameOpcode b0) = true) :
    checkByte0 c b0 = some ⟨.reservedOpcode, opcodeWord (frameOpcode b0), byteWord b0⟩ := by
  rw [checkByte0, if_pos h]

theorem checkByte0_of_control_without_fin {c : Ctrl} {b0 : Byte} (hc : isControl (frameOpcode b0))
    (hf : finBit b0 = false) :
    checkByte0 c b0 = some ⟨.fragmentedControlFrame, opcodeWord (frameOpcode b0), byteWord b0⟩ := by
  have hk := (reservedFrameOpcode_iff _).2 (isKnown_of_isControl hc)
  simp [checkByte0, hk, (controlFrameOpcode_iff _).2 hc, hf]

theorem checkByte0_of_unclaimed {c : Ctrl} {b0 : Byte} (hk : isKnown (frameOpcode b0))
    (hf : isControl (frameOpcode b0) → finBit b0 = true) (hu : unclaimedRsv c b0 ≠ 0#8) :
    checkByte0 c b0 = some ⟨.reservedBitsSet, byteWord (unclaimedRsv c b0), byteWord b0⟩ := by
  have hfin : ¬ (controlFrameOpcode (frameOpcode b0) && !finBit b0) = true := by
    rw [Bool.and_eq_true, controlFrameOpcode_iff]
    rintro ⟨hc, hn⟩
    simp [hf hc] at hn
  rw [checkByte0, (reservedFrameOpcode_iff _).2 hk, if_neg Bool.false_ne_true, if_neg hfin, if_pos hu]

/-- A byte-0 check that fails ends PARSE, whatever byte 1 holds. -/
theorem exec_parse_of_checkByte0 {s : State} {e : CmdError} (z : Bool)
    (hr : s.inRange s.aSrc.toNat s.aLen.toNat = true) (h2 : 2 ≤ s.aLen.toNat)
    (hc : checkByte0 s.ctrl (byte0 s) = some e) :
    exec (.parse z) s = .next (s.parseRaise (.parsedFrame (frameOpcode (byte0 s))) e) :=
  exec_parse_of_error z hr h2 (parseHeader_slice_of_two_byte_check h2 (by rw [hc, Option.some_or]))

/-- Settles O25: one case per check of `CheckByte0`, in its order. -/
theorem parseChecksByteZeroInOrder : Obligations.ParseChecksByteZeroInOrder := by
  rintro s z _ hr h2 rfl
  refine ⟨fun hop => ?_, fun hc hf => ?_, ?_⟩
  · obtain ⟨hres, hne⟩ := reservedFrameOpcode_of_mem _ hop
    have hend := exec_parse_of_checkByte0 z hr h2 (checkByte0_of_reserved hres)
    rwa [State.parseRaise_eq_endParseError, closeHint, frameOpcode, if_neg hne] at hend
  · exact exec_parse_of_checkByte0 z hr h2 (checkByte0_of_control_without_fin hc hf)
  · rintro hk hf _ rfl hu
    rw [← unclaimedRsv_eq] at hu ⊢
    exact exec_parse_of_checkByte0 z hr h2 (checkByte0_of_unclaimed hk hf hu)

/-! ## The role-masking check (R164) -/

/-- A role check that fails ends PARSE when byte 0 passed. -/
theorem exec_parse_of_checkRole {s : State} {e : CmdError} (z : Bool)
    (hr : s.inRange s.aSrc.toNat s.aLen.toNat = true) (h2 : 2 ≤ s.aLen.toNat)
    (hb : byte0Accepted s.ctrl (byte0 s)) (hc : checkRole s.ctrl (byte1 s) = some e) :
    exec (.parse z) s = .next (s.parseRaise (.parsedFrame (frameOpcode (byte0 s))) e) :=
  exec_parse_of_error z hr h2
    (parseHeader_slice_of_two_byte_check h2 (by rw [(checkByte0_eq_none _ _).2 hb, Option.none_or, hc]))

theorem checkRole_of_server {c : Ctrl} {b1 : Byte} (hs : c.server = true) (hm : maskBit b1 = false)
    (ha : c.acceptUnmasked = false) : checkRole c b1 = some ⟨.unmaskedClientFrame, byteWord b1, 0#64⟩ := by
  simp [checkRole, hs, hm, ha]

theorem checkRole_of_client {c : Ctrl} {b1 : Byte} (hs : c.server = false) (hm : maskBit b1 = true) :
    checkRole c b1 = some ⟨.maskedServerFrame, byteWord b1, 0#64⟩ := by
  simp [checkRole, hs, hm]

/-- Settles O26: one case per role. -/
theorem parseChecksMaskingByRole : Obligations.ParseChecksMaskingByRole := fun _ z hr h2 hb =>
  ⟨fun hs hm ha => exec_parse_of_checkRole z hr h2 hb (checkRole_of_server hs hm ha),
    fun hs hm => exec_parse_of_checkRole z hr h2 hb (checkRole_of_client hs hm)⟩

/-! ## The length checks (R163) -/

theorem minimalForm_eq_false {l7 : BitVec 7} {len : Nat} :
    minimalForm l7 len = false ↔ (extBytes l7 = 2 ∧ len < 126) ∨ (extBytes l7 = 8 ∧ len < 65536) := by
  simp only [minimalForm, Bool.not_eq_false', Bool.or_eq_true, Bool.and_eq_true, decide_eq_true_eq]

theorem checkLengthForm_of_top_bit {c : Ctrl} {l7 : BitVec 7} {len : Nat} (hx : extBytes l7 = 8) (h : 2 ^ 63 ≤ len) :
    checkLengthForm c l7 len = some ⟨.protocolViolation, 1#64, BitVec.ofNat 64 len⟩ := by
  rw [checkLengthForm, if_pos ⟨hx, h⟩]

/-- A form longer than needed carries no length with its top bit set, so the two checks do not meet. -/
theorem checkLengthForm_of_longer_form {c : Ctrl} {l7 : BitVec 7} {len : Nat} (hs : c.strictLen = true)
    (h : (extBytes l7 = 2 ∧ len < 126) ∨ (extBytes l7 = 8 ∧ len < 65536)) :
    checkLengthForm c l7 len = some ⟨.protocolViolation, 2#64, BitVec.ofNat 64 len⟩ := by
  rw [checkLengthForm, if_neg (by omega), hs, minimalForm_eq_false.2 h]
  rfl

theorem checkLength_of_control {mf : Word} {op : BitVec 4} {len : Nat} (hc : isControl op) (h : 125 < len) :
    checkLength mf op len = some ⟨.controlFrameTooLarge, BitVec.ofNat 64 len, 125#64⟩ := by
  rw [checkLength, if_pos ⟨(controlFrameOpcode_iff op).2 hc, h⟩]

theorem checkLength_of_maxFrame {mf : Word} {op : BitVec 4} {len : Nat} (hc : isControl op → len ≤ 125)
    (h : mf.toNat < len) : checkLength mf op len = some ⟨.frameTooLarge, BitVec.ofNat 64 len, mf⟩ := by
  have hctl : ¬ (controlFrameOpcode op = true ∧ 125 < len) := fun ⟨hop, hlen⟩ =>
    Nat.not_lt.2 (hc ((controlFrameOpcode_iff op).1 hop)) hlen
  rw [checkLength, if_neg hctl, if_pos h]

section
variable {s : State} {e : CmdError} (z : Bool) (hr : s.inRange s.aSrc.toNat s.aLen.toNat = true)
  (hx : 2 + ext s ≤ s.aLen.toNat) (hb : byte0Accepted s.ctrl (byte0 s)) (hro : roleAccepted s.ctrl (masked s))
include hr hx hb hro

/-- A check inside `DecodeLength` that fails ends PARSE, whatever `CheckLength` would say. -/
theorem exec_parse_of_checkLengthForm (hc : checkLengthForm s.ctrl (len7 (byte1 s)) (frameLen s) = some e) :
    exec (.parse z) s = .next (s.parseRaise (.parsedFrame (frameOpcode (byte0 s))) e) :=
  exec_parse_of_error z hr (by omega) (parseHeader_slice_of_length_check hx hb hro (by rw [hc, Option.some_or]))

/-- A check of `CheckLength` that fails ends PARSE when those inside `DecodeLength` passed. -/
theorem exec_parse_of_checkLength (hlf : lengthFormAccepted s)
    (hc : checkLength s.maxFrame (frameOpcode (byte0 s)) (frameLen s) = some e) :
    exec (.parse z) s = .next (s.parseRaise (.parsedFrame (frameOpcode (byte0 s))) e) :=
  exec_parse_of_error z hr (by omega)
    (parseHeader_slice_of_length_check hx hb hro (by rw [(checkLengthForm_eq_none s).2 hlf, Option.none_or, hc]))

end

/-- Settles O27: two cases inside `DecodeLength`, then, when its checks pass, two of `CheckLength`. -/
theorem parseChecksLengthInOrder : Obligations.ParseChecksLengthInOrder := by
  rintro s z _ hr hx rfl hb hro
  refine ⟨fun h8 htop => ?_, fun hs hform => ?_, fun hlf hc hlen => ?_, fun hlf hc hlen => ?_⟩
  · exact exec_parse_of_checkLengthForm z hr hx hb hro (checkLengthForm_of_top_bit h8 htop)
  · exact exec_parse_of_checkLengthForm z hr hx hb hro (checkLengthForm_of_longer_form hs hform)
  · exact exec_parse_of_checkLength z hr hx hb hro hlf (checkLength_of_control hc hlen)
  · exact exec_parse_of_checkLength z hr hx hb hro hlf (checkLength_of_maxFrame hc hlen)

end Sys2Proof.Machine
end

/-! PROOFS of the family 43_frame_serialize.md. -/
section
namespace Sys2Proof.Machine

open Sys2Proof.Safety

/-! ## SER stopped by its header check or its role check -/

/-- The first check that fails ends SER, with close hint 0 (R263). -/
theorem exec_ser_of_check {s : State} {m : Bool} {e : CmdError}
    (hc : (checkTxHeader s.ctrl s.txHdr s.aLen.toNat).or (checkTxRole s.ctrl m) = some e) :
    exec (.ser m) s = .next (endError s e.kind.code 0#16 e.info0 e.info1) := by
  obtain ⟨_, he, hend⟩ | ⟨hn, -⟩ := execSer_cases s m
  · cases hc.symm.trans he
    exact hend
  · cases hc.symm.trans hn

/-- A header check that fails ends SER, whatever the role check would say. -/
theorem exec_ser_of_checkTxHeader {s : State} {e : CmdError} (m : Bool)
    (hc : checkTxHeader s.ctrl s.txHdr s.aLen.toNat = some e) :
    exec (.ser m) s = .next (endError s e.kind.code 0#16 e.info0 e.info1) :=
  exec_ser_of_check (by rw [hc, Option.some_or])

/-- A role check that fails ends SER when the header passed. -/
theorem exec_ser_of_checkTxRole {s : State} {m : Bool} {e : CmdError}
    (hh : txHeaderAccepted s.ctrl s.txHdr s.aLen.toNat) (hc : checkTxRole s.ctrl m = some e) :
    exec (.ser m) s = .next (endError s e.kind.code 0#16 e.info0 e.info1) :=
  exec_ser_of_check (by rw [(checkTxHeader_eq_none _ _ _).2 hh, Option.none_or, hc])

/-! ## The header checks (R202) -/

theorem not_isControl_of_reserved {op : BitVec 4} (h : reservedFrameOpcode op = true) : ¬ isControl op := fun hc =>
  Bool.eq_false_iff.1 ((reservedFrameOpcode_iff op).2 (isKnown_of_isControl hc)) h

/-- Unless the frame is a control frame beyond 125 bytes, the checks of SER are those of R162 and then the bound on the
length. -/
theorem checkTxHeader_eq_checkByte0_or {c : Ctrl} {h : Byte} {len : Nat}
    (hl : isControl (frameOpcode h) → len ≤ 125) :
    checkTxHeader c h len =
      (checkByte0 c h).or
        (if 2 ^ 63 ≤ len then some ⟨.frameTooLarge, BitVec.ofNat 64 len, 0x7FFFFFFFFFFFFFFF#64⟩ else none) := by
  have hlong : ¬ (controlFrameOpcode (frameOpcode h) = true ∧ 125 < len) := fun ⟨hop, hlen⟩ =>
    Nat.not_lt.2 (hl ((controlFrameOpcode_iff _).1 hop)) hlen
  rw [checkTxHeader, checkByte0, if_neg hlong]
  split_ifs <;> rfl

theorem checkTxHeader_of_control_without_fin {c : Ctrl} {h : Byte} (len : Nat) (hc : isControl (frameOpcode h))
    (hf : finBit h = false) :
    checkTxHeader c h len = some ⟨.fragmentedControlFrame, opcodeWord (frameOpcode h), byteWord h⟩ := by
  have hk := (reservedFrameOpcode_iff _).2 (isKnown_of_isControl hc)
  simp [checkTxHeader, hk, (controlFrameOpcode_iff _).2 hc, hf]

theorem checkTxHeader_of_long_control {c : Ctrl} {h : Byte} {len : Nat} (hc : isControl (frameOpcode h))
    (hf : finBit h = true) (hl : 125 < len) :
    checkTxHeader c h len = some ⟨.controlFrameTooLarge, BitVec.ofNat 64 len, 125#64⟩ := by
  have hk := (reservedFrameOpcode_iff _).2 (isKnown_of_isControl hc)
  simp [checkTxHeader, hk, (controlFrameOpcode_iff _).2 hc, hf, hl]

/-- Settles O36: a control frame may be too long as well, so its two checks have their own lemmas; the other three errors
are those of R162 and the length bound (`checkTxHeader_eq_checkByte0_or`). -/
theorem serChecksHeaderInOrder : Obligations.SerChecksHeaderInOrder := by
  rintro s m _ _ rfl rfl
  have hlen : BitVec.ofNat 64 s.aLen.toNat = s.aLen := by rw [BitVec.ofNat_toNat, BitVec.setWidth_eq]
  refine ⟨fun hop => ?_, fun hc hf => ?_, fun hc hf hl => ?_, ?_⟩
  · obtain ⟨hres, -⟩ := reservedFrameOpcode_of_mem _ hop
    have hheader := checkTxHeader_eq_checkByte0_or (c := s.ctrl) (len := s.aLen.toNat) fun hc =>
      absurd hc (not_isControl_of_reserved hres)
    rw [checkByte0_of_reserved hres, Option.some_or] at hheader
    exact exec_ser_of_checkTxHeader m hheader
  · exact exec_ser_of_checkTxHeader m (checkTxHeader_of_control_without_fin _ hc hf)
  · have hend := exec_ser_of_checkTxHeader m (checkTxHeader_of_long_control (c := s.ctrl) hc hf hl)
    rwa [hlen] at hend
  · rintro hk hctl _ rfl
    have hheader := checkTxHeader_eq_checkByte0_or (c := s.ctrl) fun hc => (hctl hc).2
    refine ⟨fun hu => ?_, fun hu hl => ?_⟩
    · rw [← unclaimedRsv_eq] at hu ⊢
      rw [checkByte0_of_unclaimed hk (fun hc => (hctl hc).1) hu, Option.some_or] at hheader
      exact exec_ser_of_checkTxHeader m hheader
    · rw [(checkByte0_eq_none _ _).2 ⟨hk, fun hc => (hctl hc).1, hu⟩, Option.none_or, if_pos hl, hlen] at hheader
      exact exec_ser_of_checkTxHeader m hheader

/-! ## The role check (R203) -/

theorem checkTxRole_of_client {c : Ctrl} (hs : c.server = false) :
    checkTxRole c false = some ⟨.unmaskedClientFrame, 0#64, 1#64⟩ := by
  simp [checkTxRole, hs]

theorem checkTxRole_of_server {c : Ctrl} (hs : c.server = true) :
    checkTxRole c true = some ⟨.maskedServerFrame, 1#64, 1#64⟩ := by
  simp [checkTxRole, hs]

/-- Settles O37: one case per role. -/
theorem serChecksMaskingByRole : Obligations.SerChecksMaskingByRole := fun _ hh =>
  ⟨fun hs => exec_ser_of_checkTxRole hh (checkTxRole_of_client hs),
    fun hs => exec_ser_of_checkTxRole hh (checkTxRole_of_server hs)⟩

/-! ## The two ranges and the emitted frame (R200, R201, R204, R205) -/

theorem txLengthForm_length (h : Byte) (m : Bool) (len : Nat) :
    (txLengthForm h m len).length + (if m then 4 else 0) = txLen m len := by
  unfold txLengthForm txLen
  split_ifs <;> rfl

theorem txFrame_length (s : State) (m : Bool) : (txFrame s m).length = txLen m s.aLen.toNat + s.aLen.toNat := by
  have hslice : s.slice.length = s.aLen.toNat := Memory.readBytes_length _ _ _
  rw [← txLengthForm_length s.txHdr, txFrame]
  cases m
  · simp [hslice]
  · simp [hslice, wireKey, Nat.add_assoc, Nat.add_comm 4]

/-- The bytes SER puts together are the frame the statements write out. -/
theorem txHeaderBytes_append_payload (s : State) (m : Bool) :
    txHeaderBytes s.txHdr m s.key s.aLen.toNat ++ (if m then maskRef s.slice s.key 0 else s.slice) = txFrame s m := by
  rw [txHeaderBytes_eq, txFrame]
  cases m <;> simp

/-- `InRange` of a range that is not empty (R10); SER's output never is. -/
theorem State.inRange_iff_of_pos (s : State) {a n : Nat} (hn : 0 < n) :
    s.inRange a n = true ↔ a + n ≤ s.cfg.memBytes := by
  simp [State.inRange, Nat.pos_iff_ne_zero.1 hn]

theorem txLen_pos (m : Bool) (len : Nat) : 0 < txLen m len := by
  unfold txLen
  split_ifs <;> omega

/-- Behind the header and role checks SER ends by its two ranges, the source first. -/
theorem exec_ser_of_accepted {s : State} {m : Bool} (hh : txHeaderAccepted s.ctrl s.txHdr s.aLen.toNat)
    (hr : txRoleAccepted s.ctrl m) :
    exec (.ser m) s =
      if s.inRange s.aSrc.toNat s.aLen.toNat = true then
        if s.aDst.toNat + (txLen m s.aLen.toNat + s.aLen.toNat) ≤ s.cfg.memBytes then
          .next
            (endOk
              { s with
                mem := s.mem.writeBytes s.aDst.toNat (txFrame s m)
                txOutLen := BitVec.ofNat 64 (txLen m s.aLen.toNat + s.aLen.toNat) })
        else .next (endError s 0x41#8 0#16 s.aDst (BitVec.ofNat 64 (txLen m s.aLen.toNat + s.aLen.toNat)))
      else .next (endError s 0x41#8 0#16 s.aSrc s.aLen) := by
  have hnone : (checkTxHeader s.ctrl s.txHdr s.aLen.toNat).or (checkTxRole s.ctrl m) = none :=
    Option.or_eq_none_iff.2 ⟨(checkTxHeader_eq_none _ _ _).2 hh, (checkTxRole_eq_none _ _).2 hr⟩
  have hdst := s.inRange_iff_of_pos (a := s.aDst.toNat) (Nat.add_pos_left (txLen_pos m s.aLen.toNat) s.aLen.toNat)
  have hends := execSer_cases s m
  simp only [txHeaderLen_eq, txHeaderBytes_append_payload, boundsFault, BitVec.ofNat_toNat, BitVec.setWidth_eq] at hends
  obtain ⟨e, he, -⟩ | ⟨-, ⟨hsrc, hend⟩ | ⟨hsrc, hout, hend⟩ | ⟨hsrc, hin, hend⟩⟩ := hends
  · cases hnone.symm.trans he
  · rw [if_neg (Bool.eq_false_iff.1 hsrc)]
    exact hend
  · rw [if_pos hsrc, if_neg (mt hdst.2 (Bool.eq_false_iff.1 hout))]
    exact hend
  · rw [if_pos hsrc, if_pos (hdst.1 hin)]
    exact hend

/-- Settles O38, by the two ends of SER outside a range. -/
theorem serChecksBothRanges : Obligations.SerChecksBothRanges := by
  refine fun s m hh hr => ⟨fun hsrc => ?_, fun hsrc hdst => ?_⟩
  · rw [exec_ser_of_accepted hh hr, if_neg (Bool.eq_false_iff.1 hsrc)]
  · rw [exec_ser_of_accepted hh hr, if_pos hsrc, if_neg (Nat.not_le.2 hdst)]

/-- Settles O35, by the end of SER inside both ranges and the length of its frame. -/
theorem serEmitsTheFrame : Obligations.SerEmitsTheFrame := by
  refine fun s m hh hr hsrc hdst => ⟨txFrame_length s m, ?_⟩
  rw [exec_ser_of_accepted hh hr, if_pos hsrc, if_pos hdst]

end Sys2Proof.Machine
end

/-! PROOFS of the family 44_utf8.md. -/
section
namespace Sys2Proof.Machine

open Sys2Proof.Safety

/-! ## U8FEED, an equation per end (R224) -/

/-- A run that is out of REJECT at its end began out of REJECT. -/
theorem ne_reject_of_runUtf8_ne_reject {t : Utf8State} {bs : List Byte} (h : runUtf8 t bs ≠ .reject) : t ≠ .reject := by
  rintro rfl
  exact h (runUtf8_reject bs)

theorem exec_u8feed_of_out_of_range {s : State} (hr : s.inRange s.aSrc.toNat s.aLen.toNat = false) :
    exec .u8feed s = .next (endError s 0x41#8 0#16 s.aSrc s.aLen) := by
  have hout : execU8feed s = .next (s.raise .inbound (boundsFault s.aSrc.toNat s.aLen.toNat)) := by
    rw [execU8feed, if_neg (Bool.eq_false_iff.1 hr)]
  simp only [State.raise_eq_endError, boundsFault, BitVec.ofNat_toNat, BitVec.setWidth_eq] at hout
  exact hout

/-- REJECT is sticky over every slice, the empty one too. -/
theorem exec_u8feed_of_reject {s : State} (hr : s.inRange s.aSrc.toNat s.aLen.toNat = true) (hs : s.u8State = .reject) :
    exec .u8feed s = .next (endError s 0x0C#8 1007#16 0#64 8#64) := by
  change execU8feed s = _
  rw [execU8feed, if_pos hr, if_pos hs]
  rfl

/-- No byte of the slice rejects. -/
theorem exec_u8feed_of_ends {s : State} (hr : s.inRange s.aSrc.toNat s.aLen.toNat = true)
    (hrun : runUtf8 s.u8State s.slice ≠ .reject) :
    exec .u8feed s =
      .next (endOk { s with u8State := runUtf8 s.u8State s.slice, u8Count := s.u8Count + s.aLen }) := by
  change execU8feed s = _
  rw [execU8feed, if_pos hr, if_neg (ne_reject_of_runUtf8_ne_reject hrun), feed_ends _ 0 _ hrun]
  rfl

/-- `b` is the first byte of the slice that rejects. -/
theorem exec_u8feed_of_rejects {s : State} {before after : List Byte} {b : Byte}
    (hr : s.inRange s.aSrc.toNat s.aLen.toNat = true) (hslice : s.slice = before ++ b :: after)
    (hrun : runUtf8 s.u8State before ≠ .reject) (hb : delta (runUtf8 s.u8State before) b = .reject) :
    exec .u8feed s =
      .next
        (endError { s with u8State := .reject, u8Count := s.u8Count + BitVec.ofNat 64 before.length } 0x0C#8 1007#16
          (BitVec.ofNat 64 before.length) ((runUtf8 s.u8State before).code.setWidth 64)) := by
  have hfeed : feed s.u8State 0 s.slice = .rejects before.length (runUtf8 s.u8State before) := by
    rw [hslice, feed_rejects _ 0 before after b hrun hb, Nat.zero_add]
  change execU8feed s = _
  rw [execU8feed, if_pos hr, if_neg (ne_reject_of_runUtf8_ne_reject hrun), hfeed]
  rfl

/-- Settles O43, by the four ends of U8FEED. -/
theorem feedValidator : Obligations.FeedValidator := fun _ =>
  ⟨exec_u8feed_of_out_of_range, fun hr =>
    ⟨exec_u8feed_of_reject hr, exec_u8feed_of_ends hr, fun _ _ _ => exec_u8feed_of_rejects hr⟩⟩

/-! ## U8RST and U8FIN (R223, R225) -/

/-- Settles O42: U8RST has one end, which looks at nothing. -/
theorem resetValidator : Obligations.ResetValidator := fun _ => rfl

theorem exec_u8fin_of_accept {s : State} (hs : s.u8State = .accept) :
    exec .u8fin s = .next (endOk { s with u8Count := 0#64 }) :=
  if_pos hs

theorem exec_u8fin_of_ne_accept {s : State} (hs : s.u8State ≠ .accept) :
    exec .u8fin s =
      .next (endError { s with u8State := .reject } 0x0C#8 1007#16 s.u8Count (s.u8State.code.setWidth 64)) :=
  if_neg hs

/-- Settles O44, by the two ends of U8FIN. -/
theorem finishValidator : Obligations.FinishValidator := fun _ => ⟨exec_u8fin_of_accept, exec_u8fin_of_ne_accept⟩

end Sys2Proof.Machine
end

/-! PROOFS of the family 70_reset_and_hazards.md. -/
section
namespace Sys2Proof.Machine

/-! ## The registers after reset (R303) -/

/-- Reset leaves `BUSY` = 0, so every register answers its value. -/
theorem State.regRead_powerOn_offset (p : Params) (m : Memory) (r : Reg) :
    (State.powerOn p m).regRead r.offset = (State.powerOn p m).regValue r :=
  State.regRead_offset _ r

/-- `CAP` is its four presence bits, the scalar path's always 1 (R22). -/
theorem capWord_eq_or (p : Params) :
    capWord p =
      (if p.hasV512 then 8#64 else 0#64) ||| (if p.hasV256 then 4#64 else 0#64) |||
        (if p.hasV128 then 2#64 else 0#64) ||| 1#64 := by
  unfold capWord
  cases p.hasV512 <;> cases p.hasV256 <;> cases p.hasV128 <;> rfl

/-- `DISPATCH` as a word, with the widest path selected (R24). -/
theorem setWidth_widestPath (p : Params) :
    p.widestPath.setWidth 64 =
      if p.hasV512 then 3#64 else if p.hasV256 then 2#64 else if p.hasV128 then 1#64 else 0#64 := by
  unfold Params.widestPath
  split_ifs <;> rfl

/-- `CTRL` after reset: `STRICT_LEN` alone (R23). -/
theorem State.powerOn_ctrl_toWord (p : Params) (m : Memory) : (State.powerOn p m).ctrl.toWord = 4#64 := by
  simp [State.powerOn, Ctrl.toWord]

/-- Behind the first five registers of the map every reset value is 0, the registers of several fields included. -/
theorem State.regValue_powerOn_eq_zero (p : Params) (m : Memory) {r : Reg}
    (h : r ∉ [Reg.id, .cap, .ctrl, .dispatch, .maxFrame]) : (State.powerOn p m).regValue r = 0#64 := by
  cases r with
  | id | cap | ctrl | dispatch | maxFrame => simp at h
  | status => simp [State.regValue, State.powerOn, Status.toWord, CmdResult.code]
  | rxHdr => simp [State.regValue, State.powerOn, RxHdr.toWord]
  | rxClose => simp [State.regValue, State.powerOn, RxClose.toWord]
  | _ => rfl

/-- The registers behind the first five, at their offsets. -/
theorem State.regRead_powerOn_eq_zero (p : Params) (m : Memory) :
    ∀ off ∈ (Reg.all.drop 5).map Reg.offset, (State.powerOn p m).regRead off = 0#64 := by
  have hne : ∀ r ∈ Reg.all.drop 5, r ∉ [Reg.id, .cap, .ctrl, .dispatch, .maxFrame] := by decide
  refine List.forall_mem_map.2 fun r hr => ?_
  rw [State.regRead_powerOn_offset, State.regValue_powerOn_eq_zero p m (hne r hr)]

/-- Settles O48, register by register: each read is the register's value, and the table's 0 offsets are those of the
registers behind the first five. -/
theorem resetValuesOfEveryRegister : Obligations.ResetValuesOfEveryRegister := by
  rintro p m _ rfl
  have value := State.regRead_powerOn_offset p m
  exact ⟨value .id, (value .cap).trans (capWord_eq_or p), (value .ctrl).trans (State.powerOn_ctrl_toWord p m),
    (value .dispatch).trans (setWidth_widestPath p), value .maxFrame, State.regRead_powerOn_eq_zero p m, rfl, rfl⟩

end Sys2Proof.Machine
end

/-! PROOFS of the family 'other': the encodings (30_encoding.md). -/
section
namespace Sys2Proof

/-! ## The three fields of a command word (R80) -/

@[simp] theorem commandOpcode_commandWord (f o : Byte) : commandOpcode (commandWord f o) = o :=
  BitVec.extractLsb'_append_eq_right

@[simp] theorem commandFlags_commandWord (f o : Byte) : commandFlags (commandWord f o) = f := by
  rw [commandFlags, commandWord, BitVec.extractLsb'_append_eq_of_le (by decide)]
  exact BitVec.extractLsb'_append_eq_right

@[simp] theorem upperBits_commandWord (f o : Byte) : (commandWord f o).extractLsb' 16 48 = 0#48 := by
  rw [commandWord, BitVec.extractLsb'_append_eq_of_le (by decide)]
  exact BitVec.extractLsb'_append_eq_left

/-- A word is its three fields. -/
theorem append_fields (w : Word) : w.extractLsb' 16 48 ++ commandFlags w ++ commandOpcode w = w := by
  unfold commandFlags commandOpcode
  rw [BitVec.extractLsb'_append_extractLsb'_eq_extractLsb' (start₁ := 8) (len₁ := 8) rfl,
    BitVec.extractLsb'_append_extractLsb'_eq_extractLsb' (start₁ := 0) (len₁ := 8) rfl]
  exact BitVec.extractLsb'_eq_self

/-- A field of the flags, at its place in the word. -/
theorem extractLsb'_commandFlags (w : Word) {i n : Nat} (h : i + n ≤ 8) :
    (commandFlags w).extractLsb' i n = w.extractLsb' (8 + i) n := by
  ext j hj
  have hlt : i + j < 8 := by omega
  simp [commandFlags, hlt, Nat.add_assoc]

theorem commandWord_eq_iff (f o : Byte) (w : Word) :
    commandWord f o = w ↔ w.extractLsb' 16 48 = 0#48 ∧ commandFlags w = f ∧ commandOpcode w = o := by
  constructor
  · rintro rfl
    simp
  · rintro ⟨hu, rfl, rfl⟩
    rw [commandWord, ← hu, append_fields]

/-! ## Decoding is the inverse of encoding -/

/-- Flags whose six upper bits are unused hold MASK's phase. -/
theorem phase_flags_iff (f : Byte) (x : BitVec 2) :
    f = 0#6 ++ x ↔ f.extractLsb' 2 6 = 0#6 ∧ f.extractLsb' 0 2 = x := by
  revert f x
  decide

/-- Flags whose seven upper bits are unused hold one bit: Z or M. -/
theorem bit_flags_iff (f : Byte) (b : Bool) :
    f = 0#7 ++ BitVec.ofBool b ↔ f.extractLsb' 1 7 = 0#7 ∧ f.getLsbD 0 = b := by
  revert f b
  decide

/-- A number below four is what two bits hold of it. -/
theorem phase_eq_toNat_iff (x : BitVec 2) (p : Nat) : x.toNat = p ↔ p < 4 ∧ x = BitVec.ofNat 2 p := by
  have := x.isLt
  simp only [BitVec.toNat_eq, BitVec.toNat_ofNat]
  omega

theorem decodeCommand_of_encode {i : Instr} {w : Word} (hi : i.wf = true) (h : encode i = .command w) :
    decodeCommand w = .ok i := by
  cases i with
  | mask p =>
    cases h
    obtain ⟨hunused, hphase⟩ := (phase_flags_iff (0#6 ++ BitVec.ofNat 2 p) _).1 rfl
    have hp : (BitVec.ofNat 2 p).toNat = p := (phase_eq_toNat_iff _ p).2 ⟨by simpa [Instr.wf] using hi, rfl⟩
    simp [decodeCommand, hunused, hphase, hp, -BitVec.extractLsb'_toNat]
  | parse b | ser b =>
    cases h
    obtain ⟨hunused, hbit⟩ := (bit_flags_iff (0#7 ++ BitVec.ofBool b) b).1 rfl
    simp [decodeCommand, hunused, hbit, -BitVec.getLsbD_eq_getElem]
  | u8rst | u8feed | u8fin => cases h; rfl
  | _ => cases h

theorem encode_of_decodeCommand {i : Instr} {w : Word} (h : decodeCommand w = .ok i) :
    i.wf = true ∧ encode i = .command w := by
  have word {f o : Byte} (hu : ¬ w.extractLsb' 16 48 ≠ 0#48) (hf : commandFlags w = f) (ho : commandOpcode w = o) :
      Encoded.command (commandWord f o) = .command w :=
    congrArg _ ((commandWord_eq_iff f o w).2 ⟨not_not.1 hu, hf, ho⟩)
  unfold decodeCommand at h
  split_ifs at h <;> cases h
  · obtain ⟨hp, hx⟩ := (phase_eq_toNat_iff ((commandFlags w).extractLsb' 0 2) _).1 rfl
    exact ⟨decide_eq_true hp, word ‹_› ((phase_flags_iff _ _).2 ⟨‹_›, hx⟩) ‹_›⟩
  · exact ⟨rfl, word ‹_› ((bit_flags_iff _ _).2 ⟨‹_›, rfl⟩) ‹_›⟩
  · exact ⟨rfl, word ‹_› ((bit_flags_iff _ _).2 ⟨‹_›, rfl⟩) ‹_›⟩
  · exact ⟨rfl, word ‹_› ‹_› ‹_›⟩
  · exact ⟨rfl, word ‹_› ‹_› ‹_›⟩
  · exact ⟨rfl, word ‹_› ‹_› ‹_›⟩

/-- The command words of an instruction: its encoding alone. -/
theorem decodeCommand_eq_ok_iff {w : Word} {i : Instr} :
    decodeCommand w = .ok i ↔ i.wf = true ∧ encode i = .command w :=
  ⟨encode_of_decodeCommand, fun ⟨hi, h⟩ => decodeCommand_of_encode hi h⟩

/-- A byte 0 is its five fields (R84). -/
theorem frameByte0_fields (b : Byte) :
    frameByte0 (b.getLsbD 7) (b.getLsbD 6) (b.getLsbD 5) (b.getLsbD 4) (frameOpcode b) = b := by
  revert b
  decide

/-- R89 read from the five fields of byte 0. -/
theorem decodeFrameByte_frameByte0 (f a b c : Bool) (op : BitVec 4) :
    decodeFrameByte (frameByte0 f a b c op) =
      if op = 0x0#4 then .ok (.frameContinuation f a b c)
      else if op = 0x1#4 then .ok (.frameText f a b c)
      else if op = 0x2#4 then .ok (.frameBinary f a b c)
      else if op = 0x8#4 then .ok (.frameClose f a b c)
      else if op = 0x9#4 then .ok (.framePing f a b c)
      else if op = 0xA#4 then .ok (.framePong f a b c)
      else .error .reservedFrameOpcode := by
  have hfields : (frameByte0 f a b c op).getLsbD 7 = f ∧ (frameByte0 f a b c op).getLsbD 6 = a ∧
      (frameByte0 f a b c op).getLsbD 5 = b ∧ (frameByte0 f a b c op).getLsbD 4 = c := by
    revert f a b c op
    decide
  obtain ⟨h7, h6, h5, h4⟩ := hfields
  simp only [decodeFrameByte, h7, h6, h5, h4, Machine.frameOpcode_frameByte0]

theorem decodeFrameByte_of_encode {i : Instr} {b : Byte} (h : encode i = .frameByte0 b) :
    decodeFrameByte b = .ok i := by
  cases i <;> cases h <;> rw [decodeFrameByte_frameByte0] <;> rfl

theorem encode_of_decodeFrameByte {i : Instr} {b : Byte} (h : decodeFrameByte b = .ok i) :
    i.wf = true ∧ encode i = .frameByte0 b := by
  have byte {op : BitVec 4} (ho : frameOpcode b = op) :
      Encoded.frameByte0 (frameByte0 (b.getLsbD 7) (b.getLsbD 6) (b.getLsbD 5) (b.getLsbD 4) op) = .frameByte0 b := by
    rw [← ho, frameByte0_fields]
  unfold decodeFrameByte at h
  split_ifs at h with ho ho ho ho ho ho <;> cases h <;> exact ⟨rfl, byte ho⟩

/-- Settles O1, by the two kinds of encoding. -/
theorem decodeUndoesEncode : Obligations.DecodeUndoesEncode := by
  intro i hi
  cases he : encode i with
  | command w => exact decodeCommand_of_encode hi he
  | frameByte0 b => exact decodeFrameByte_of_encode he

/-- Settles O2, by the two kinds of encoding. -/
theorem encodeUndoesDecode : Obligations.EncodeUndoesDecode := by
  intro e i h
  cases e with
  | command w => exact encode_of_decodeCommand h
  | frameByte0 b => exact encode_of_decodeFrameByte h

/-! ## Match and mask of each command (R82) -/

/-- A word agrees with a match under a mask that leaves out bits of the flags alone. -/
theorem and_mask_eq_iff (w : Word) (fm f o : Byte) :
    w &&& (BitVec.allOnes 48 ++ fm ++ BitVec.allOnes 8) = commandWord f o ↔
      w.extractLsb' 16 48 = 0#48 ∧ commandFlags w &&& fm = f ∧ commandOpcode w = o := by
  have hmasked : w &&& (BitVec.allOnes 48 ++ fm ++ BitVec.allOnes 8) =
      w.extractLsb' 16 48 ++ (commandFlags w &&& fm) ++ commandOpcode w := by
    conv_lhs => rw [← append_fields w, BitVec.and_append, BitVec.and_append, BitVec.and_allOnes, BitVec.and_allOnes]
  refine ⟨fun h => ?_, fun ⟨hu, hf, ho⟩ => by rw [hmasked, hu, hf, ho, commandWord]⟩
  rw [hmasked, commandWord] at h
  have hlow := congrArg (BitVec.setWidth 8) h
  rw [BitVec.setWidth_append_eq_right, BitVec.setWidth_append_eq_right] at hlow
  rw [hlow, BitVec.append_left_inj] at h
  have hmid := congrArg (BitVec.setWidth 8) h
  rw [BitVec.setWidth_append_eq_right, BitVec.setWidth_append_eq_right] at hmid
  rw [hmid, BitVec.append_left_inj] at h
  exact ⟨h, hmid, hlow⟩

/-- MASK's mask leaves out the two bits of its phase. -/
theorem and_phase_mask_iff (f : Byte) (x : BitVec 2) :
    f = 0#6 ++ x ↔ f &&& 0xFC#8 = 0#8 ∧ f.extractLsb' 0 2 = x := by
  revert f x
  decide

/-- The masks of PARSE and SER leave out one bit. -/
theorem and_bit_mask_iff (f : Byte) (b : Bool) :
    f = 0#7 ++ BitVec.ofBool b ↔ f &&& 0xFE#8 = 0#8 ∧ b = f.getLsbD 0 := by
  revert f b
  decide

theorem decodeCommand_eq_mask_iff (w : Word) (p : Nat) :
    decodeCommand w = .ok (.mask p) ↔
      w &&& 0xFFFFFFFFFFFFFCFF#64 = 0x0000000000000001#64 ∧ p = (w.extractLsb' 8 2).toNat := by
  have hphase : w.extractLsb' 8 2 = (commandFlags w).extractLsb' 0 2 :=
    (extractLsb'_commandFlags w (show 0 + 2 ≤ 8 by decide)).symm
  have hrow := and_mask_eq_iff w 0xFC#8 0#8 0x01#8
  rw [decodeCommand_eq_ok_iff, encode, Encoded.command.injEq, commandWord_eq_iff, and_phase_mask_iff, hphase,
    eq_comm (a := p), phase_eq_toNat_iff]
  refine Iff.trans ?_ (and_congr_left' hrow.symm)
  simp only [Instr.wf, decide_eq_true_eq]
  tauto

/-- PARSE and SER, whose one flag bit is bit 8 of the word. -/
theorem commandWord_bit_eq_iff (w : Word) (b : Bool) (o : Byte) :
    commandWord (0#7 ++ BitVec.ofBool b) o = w ↔
      w &&& 0xFFFFFFFFFFFFFEFF#64 = commandWord 0#8 o ∧ b = w.getLsbD 8 := by
  have hbit : w.getLsbD 8 = (commandFlags w).getLsbD 0 := by simp [commandFlags]
  have hrow := and_mask_eq_iff w 0xFE#8 0#8 o
  rw [commandWord_eq_iff, and_bit_mask_iff, hbit]
  refine Iff.trans ?_ (and_congr_left' hrow.symm)
  tauto

/-- The three validator commands, which use no flag bit. -/
theorem commandWord_zero_eq_iff (w : Word) (o : Byte) :
    commandWord 0#8 o = w ↔ w &&& 0xFFFFFFFFFFFFFFFF#64 = commandWord 0#8 o := by
  rw [show (0xFFFFFFFFFFFFFFFF#64) = BitVec.allOnes 64 from rfl, BitVec.and_allOnes, eq_comm]

/-- Settles O3, command by command: decoding is the inverse of encoding, and an encoding is its match with flag bits that
the mask leaves out. -/
theorem wordSelectsCommandByMatchAndMask : Obligations.WordSelectsCommandByMatchAndMask := by
  intro w
  refine ⟨decodeCommand_eq_mask_iff w, fun z => ?_, fun m => ?_, ?_, ?_, ?_⟩ <;>
    simp only [decodeCommand_eq_ok_iff, encode, Encoded.command.injEq, Instr.wf, true_and]
  · exact commandWord_bit_eq_iff w z 0x10#8
  · exact commandWord_bit_eq_iff w m 0x11#8
  · exact commandWord_zero_eq_iff w 0x20#8
  · exact commandWord_zero_eq_iff w 0x21#8
  · exact commandWord_zero_eq_iff w 0x22#8

/-- Settles O4: each word is a closed instance of the two decoders. -/
theorem writtenOutWordsDecode : Obligations.WrittenOutWordsDecode := by
  unfold Obligations.WrittenOutWordsDecode
  decide

/-- Settles O5: the decoder reads the five fields of byte 0 back. -/
theorem frameOpcodesDecodeByTable : Obligations.FrameOpcodesDecodeByTable :=
  decodeFrameByte_frameByte0

/-! ## Illegal words (R83, R264) -/

/-- A word is illegal by its upper bits, its opcode, or a flag bit that its opcode does not use. -/
theorem decodeCommand_ne_ok_iff (w : Word) :
    (∀ i : Instr, decodeCommand w ≠ .ok i) ↔
      w.extractLsb' 0 8 ∉ [0x01#8, 0x10#8, 0x11#8, 0x20#8, 0x21#8, 0x22#8] ∨
      w.extractLsb' 16 48 ≠ 0#48 ∨
      (w.extractLsb' 0 8 = 0x01#8 ∧ w.extractLsb' 10 6 ≠ 0#6) ∨
      (w.extractLsb' 0 8 ∈ [0x10#8, 0x11#8] ∧ w.extractLsb' 9 7 ≠ 0#7) ∨
      (w.extractLsb' 0 8 ∈ [0x20#8, 0x21#8, 0x22#8] ∧ w.extractLsb' 8 8 ≠ 0#8) := by
  have h6 : w.extractLsb' 10 6 = (commandFlags w).extractLsb' 2 6 :=
    (extractLsb'_commandFlags w (show 2 + 6 ≤ 8 by decide)).symm
  have h7 : w.extractLsb' 9 7 = (commandFlags w).extractLsb' 1 7 :=
    (extractLsb'_commandFlags w (show 1 + 7 ≤ 8 by decide)).symm
  rw [h6, h7]
  change _ ↔ commandOpcode w ∉ _ ∨ _ ∨ (commandOpcode w = _ ∧ _) ∨ (commandOpcode w ∈ _ ∧ _) ∨
    (commandOpcode w ∈ _ ∧ commandFlags w ≠ _)
  unfold decodeCommand
  split_ifs <;> simp_all

end Sys2Proof

namespace Sys2Proof.Machine

open Sys2Proof.Safety

theorem step_of_illegal {s : State} (hm : s.mover = some .engine) (h : ∀ i : Instr, decodeCommand s.cmd ≠ .ok i) :
    step s = .next s.afterTurn.illegalCommand := by
  unfold step
  rw [hm]
  cases hd : decodeCommand s.cmd with
  | ok i => exact absurd hd (h i)
  | error e => rfl

/-- Settles O6: the illegal words by the decoder's branches; the step on one is the one `raise` of R264. -/
theorem illegalWordCompletesWithIllegalCommand : Obligations.IllegalWordCompletesWithIllegalCommand := by
  refine ⟨decodeCommand_ne_ok_iff, fun s w hb => State.regWrite_cmd_of_idle w hb, fun s hm h => ?_⟩
  rw [step_of_illegal hm h, State.illegalCommand, State.raise_eq_endError, State.afterTurn_cmd]
  rfl

end Sys2Proof.Machine
end

/-! PROOFS of the family 'other': what every command writes to memory (20_memory.md). -/
section
namespace Sys2Proof.Machine

open Sys2Proof.Safety

/-! ## The six kinds of instruction -/

/-- PARSE, or a frame instruction, which does as PARSE does (log 12). -/
def isCodec (i : Instr) : Prop := (∃ z, i = .parse z) ∨ ∃ b, encode i = .frameByte0 b

/-- An instruction is one of the five other commands or runs the frame codec. -/
theorem instr_kinds {motive : Instr → Prop} (mask : ∀ p, motive (.mask p)) (ser : ∀ m, motive (.ser m))
    (u8rst : motive .u8rst) (u8feed : motive .u8feed) (u8fin : motive .u8fin) (codec : ∀ i, isCodec i → motive i)
    (i : Instr) : motive i := by
  cases i with
  | mask p => exact mask p
  | parse z => exact codec _ (.inl ⟨z, rfl⟩)
  | ser m => exact ser m
  | u8rst => exact u8rst
  | u8feed => exact u8feed
  | u8fin => exact u8fin
  | _ => exact codec _ (.inr ⟨_, rfl⟩)

@[simp] theorem not_isCodec_mask (p : Nat) : ¬ isCodec (.mask p) := by simp [isCodec, encode]
@[simp] theorem not_isCodec_ser (m : Bool) : ¬ isCodec (.ser m) := by simp [isCodec, encode]
@[simp] theorem not_isCodec_u8rst : ¬ isCodec .u8rst := by simp [isCodec, encode]
@[simp] theorem not_isCodec_u8feed : ¬ isCodec .u8feed := by simp [isCodec, encode]
@[simp] theorem not_isCodec_u8fin : ¬ isCodec .u8fin := by simp [isCodec, encode]

/-- The state with another memory, and every other field as it was. -/
def State.setMem (s : State) (m : Memory) : State := { s with mem := m }

@[simp] theorem State.setMem_mem (s : State) (m : Memory) : (s.setMem m).mem = m := rfl
@[simp] theorem State.setMem_aSrc (s : State) (m : Memory) : (s.setMem m).aSrc = s.aSrc := rfl
@[simp] theorem State.setMem_aLen (s : State) (m : Memory) : (s.setMem m).aLen = s.aLen := rfl

@[simp] theorem State.slice_length (s : State) : s.slice.length = s.aLen.toNat := Memory.readBytes_length _ _ _

@[simp] theorem withByte0_length (b : Byte) (bs : List Byte) : (withByte0 b bs).length = bs.length := by
  cases bs <;> rfl

/-- An instruction that runs the codec is a PARSE of the slice, with its own byte 0 if it is a frame instruction. -/
theorem exec_of_isCodec {i : Instr} (h : isCodec i) (s : State) :
    ∃ (z : Bool) (head : List Byte → List Byte), (∀ bs, (head bs).length = bs.length) ∧
      (∀ m, exec i (s.setMem m) = .next ((s.setMem m).parseBuffer z (head (s.setMem m).slice))) ∧
      s.writeRanges i = s.parseWrites z (head s.presentSlice) := by
  obtain ⟨z, rfl⟩ | ⟨b, hb⟩ := h
  · exact ⟨z, id, fun _ => rfl, fun _ => rfl, rfl⟩
  · refine ⟨s.pendingZ, withByte0 b, withByte0_length b, fun m => exec_of_frameByte0 hb _, ?_⟩
    cases i <;> cases hb <;> rfl

/-! ## What a command writes to memory: one byte list, the same into every memory with that slice -/

/-- An accepted length stays below 2^63: the 64-bit form has a check of its own, the shorter ones cannot hold more (R163). -/
theorem wireLength_lt {c : Ctrl} {l7 : BitVec 7} {rest : List Byte} (hext : extBytes l7 ≤ rest.length)
    (hform : checkLengthForm c l7 (wireLength l7 rest) = none) : wireLength l7 rest < 2 ^ 63 := by
  by_cases h8 : extBytes l7 = 8
  · by_contra hbig
    rw [checkLengthForm_of_top_bit h8 (by omega)] at hform
    cases hform
  · by_cases h0 : extBytes l7 = 0
    · have := l7.isLt
      rw [wireLength, if_pos h0]
      omega
    · have h2 : extBytes l7 = 2 := by
        unfold extBytes at *
        split_ifs at * <;> simp_all
      match rest with
      | x :: y :: _ =>
        have := x.isLt
        have := y.isLt
        rw [wireLength, if_neg h0, h2]
        simp only [List.take, beNat, List.foldl]
        omega
      | [] | [_] => simp [h2] at hext

theorem FrameHeader.len_lt {c : Ctrl} {mf : Word} {buf : List Byte} {h : FrameHeader}
    (hp : parseHeader c mf buf = .ok h) : h.len < 2 ^ 63 := by
  obtain ⟨b1, rest, -, -, hlen, -, hext, -, -, hform, -⟩ := parseHeader_b0 hp
  rw [hlen] at hform ⊢
  exact wireLength_lt hext hform

/-- The payload of a frame the header stage accepts is all there. -/
theorem payload_length {c : Ctrl} {mf : Word} {buf : List Byte} {h : FrameHeader}
    (hp : parseHeader c mf buf = .ok h) :
    (if maskBit h.b1 then maskRef ((buf.drop h.hdrLen).take h.len) h.key 0 else (buf.drop h.hdrLen).take h.len).length =
      h.len := by
  obtain ⟨b1, rest, -, -, -, hall, -⟩ := parseHeader_b0 hp
  split <;> simp <;> omega

/-- Where a PARSE that ends OK on the frame of `h` places a payload of `bs`: nowhere when it stands unmasked in place, else
at the frame's payload or at `A_DST` (R167). -/
def payloadPlaced (s : State) (z : Bool) (h : FrameHeader) (a : Nat) (bs : List Byte) : Prop :=
  (z = true ∧ maskBit h.b1 = false ∧ bs = []) ∨
    (bs.length = h.len ∧
      ((z = true ∧ maskBit h.b1 = true ∧ a = s.aSrc.toNat + h.hdrLen) ∨
        (z = false ∧ s.inRange s.aDst.toNat h.len = true ∧ a = s.aDst.toNat)))

/-! ### The ends of a PARSE of buffered bytes, an equation per end of its header stage -/

theorem State.parseBuffer_of_out {s : State} (z : Bool) (buf : List Byte)
    (hr : s.inRange s.aSrc.toNat s.aLen.toNat = false) :
    s.parseBuffer z buf = s.parseRaise .inbound (boundsFault s.aSrc.toNat s.aLen.toNat) := by
  rw [State.parseBuffer, if_neg (Bool.eq_false_iff.1 hr)]

theorem State.parseBuffer_of_needMore {s : State} {buf : List Byte} {n : Nat} (z : Bool)
    (hr : s.inRange s.aSrc.toNat s.aLen.toNat = true)
    (hp : parseHeader s.ctrl s.maxFrame buf = .error (.needMore n)) : s.parseBuffer z buf = s.needMore n := by
  rw [State.parseBuffer, if_pos hr, hp]

theorem State.parseBuffer_of_error {s : State} {buf : List Byte} {e : CmdError} (z : Bool)
    (hr : s.inRange s.aSrc.toNat s.aLen.toNat = true)
    (hp : parseHeader s.ctrl s.maxFrame buf = .error (.error e)) :
    s.parseBuffer z buf = s.parseRaise (parseSource buf) e := by
  rw [State.parseBuffer, if_pos hr, hp]

theorem State.parseBuffer_of_ok {s : State} {buf : List Byte} {h : FrameHeader} (z : Bool)
    (hr : s.inRange s.aSrc.toNat s.aLen.toNat = true) (hp : parseHeader s.ctrl s.maxFrame buf = .ok h) :
    s.parseBuffer z buf = s.parsePayload z buf h := by
  rw [State.parseBuffer, if_pos hr, hp]

theorem State.placePayload_of_out {s : State} {h : FrameHeader} (p : List Byte) (c : RxClose)
    (hd : s.inRange s.aDst.toNat h.len = false) :
    s.placePayload false h p c = s.parseRaise (.parsedFrame (frameOpcode h.b0)) (boundsFault s.aDst.toNat h.len) := by
  simp [State.placePayload, hd]

theorem State.placePayload_of_in {s : State} {h : FrameHeader} (p : List Byte) (c : RxClose)
    (hd : s.inRange s.aDst.toNat h.len = true) :
    s.placePayload false h p c = (s.parseDone h s.aDst c).setMem (s.mem.writeBytes s.aDst.toNat p) := by
  simp [State.placePayload, hd]
  rfl

theorem State.placePayload_in_place (s : State) (h : FrameHeader) (p : List Byte) (c : RxClose) :
    s.placePayload true h p c =
      (s.parseDone h (s.aSrc + BitVec.ofNat 64 h.hdrLen) c).setMem
        (if maskBit h.b1 then s.mem.writeBytes (s.aSrc.toNat + h.hdrLen) p else s.mem) :=
  rfl

/-- The placement over any memory: the results, and the payload's bytes written or not. -/
theorem State.placePayload_setMem (s : State) (z : Bool) {h : FrameHeader} {p : List Byte} (c : RxClose)
    (hlen : p.length = h.len) :
    ∃ (t : State) (a : Nat) (bs : List Byte),
      (∀ m, (s.setMem m).placePayload z h p c = t.setMem (m.writeBytes a bs)) ∧
        ((t.status.result ≠ .ok ∧ bs = []) ∨
          (t.status.result = .ok ∧ t.rxLen = BitVec.ofNat 64 h.len ∧ payloadPlaced s z h a bs)) := by
  cases z with
  | true =>
    refine ⟨s.parseDone h (s.aSrc + BitVec.ofNat 64 h.hdrLen) c, s.aSrc.toNat + h.hdrLen,
      if maskBit h.b1 then p else [], fun m => ?_, .inr ⟨rfl, rfl, ?_⟩⟩
    · rw [State.placePayload_in_place]
      cases maskBit h.b1 <;> rfl
    · cases hm : maskBit h.b1
      · exact .inl ⟨rfl, hm, rfl⟩
      · exact .inr ⟨hlen, .inl ⟨rfl, hm, rfl⟩⟩
  | false =>
    cases hd : s.inRange s.aDst.toNat h.len with
    | false =>
      exact ⟨s.parseRaise (.parsedFrame (frameOpcode h.b0)) (boundsFault s.aDst.toNat h.len), 0, [],
        fun m => State.placePayload_of_out p c hd, .inl ⟨nofun, rfl⟩⟩
    | true =>
      exact ⟨s.parseDone h s.aDst c, s.aDst.toNat, p, fun m => State.placePayload_of_in p c hd,
        .inr ⟨rfl, rfl, .inr ⟨hlen, .inr ⟨rfl, hd, rfl⟩⟩⟩⟩

/-- PARSE of the same buffered bytes over any memory ends the same and writes the same bytes: none when it does not end OK,
else the payload. -/
theorem State.parseBuffer_setMem (s : State) (z : Bool) (buf : List Byte) :
    ∃ (t : State) (a : Nat) (bs : List Byte),
      (∀ m, (s.setMem m).parseBuffer z buf = t.setMem (m.writeBytes a bs)) ∧
        ((t.status.result ≠ .ok ∧ bs = []) ∨
          ∃ h, s.inRange s.aSrc.toNat s.aLen.toNat = true ∧ parseHeader s.ctrl s.maxFrame buf = .ok h ∧
            t.status.result = .ok ∧ t.rxLen = BitVec.ofNat 64 h.len ∧ payloadPlaced s z h a bs) := by
  cases hr : s.inRange s.aSrc.toNat s.aLen.toNat with
  | false =>
    exact ⟨s.parseRaise .inbound (boundsFault s.aSrc.toNat s.aLen.toNat), 0, [],
      fun m => State.parseBuffer_of_out z buf hr, .inl ⟨nofun, rfl⟩⟩
  | true =>
    match hp : parseHeader s.ctrl s.maxFrame buf with
    | .error (.needMore n) =>
      exact ⟨s.needMore n, 0, [], fun m => State.parseBuffer_of_needMore z hr hp, .inl ⟨nofun, rfl⟩⟩
    | .error (.error e) =>
      exact ⟨s.parseRaise (parseSource buf) e, 0, [], fun m => State.parseBuffer_of_error z hr hp, .inl ⟨nofun, rfl⟩⟩
    | .ok h =>
      have hlen := payload_length hp
      have hpay (m : Memory) := (State.parseBuffer_of_ok (s := s.setMem m) z hr hp)
      simp only [State.parsePayload, State.maskPayload_eq] at hpay
      generalize (if maskBit h.b1 = true then maskRef ((buf.drop h.hdrLen).take h.len) h.key 0
        else (buf.drop h.hdrLen).take h.len) = p at hlen hpay
      cases hc : rxCloseOf (frameOpcode h.b0) p with
      | error e =>
        simp only [hc] at hpay
        exact ⟨s.parseRaise (.parsedFrame (frameOpcode h.b0)) e, 0, [], hpay, .inl ⟨nofun, rfl⟩⟩
      | ok c =>
        simp only [hc] at hpay
        obtain ⟨t, a, bs, hall, hend⟩ := s.placePayload_setMem z c hlen
        refine ⟨t, a, bs, fun m => (hpay m).trans (hall m), hend.imp_right ?_⟩
        exact fun hdone => ⟨h, rfl, rfl, hdone⟩

/-- Over every memory in which the slice `i` reads is as in `s`, `i` ends like `t` and writes `bs` at `a`. -/
def writesAlways (i : Instr) (s t : State) (a : Nat) (bs : List Byte) : Prop :=
  ∀ m, (s.readRanges i ≠ [] → (s.setMem m).slice = s.slice) → exec i (s.setMem m) = .next (t.setMem (m.writeBytes a bs))

/-- The bytes written lie in a write range of `i` and in the window, and there are none unless the end is OK. -/
def writesInside (i : Instr) (s t : State) (a : Nat) (bs : List Byte) : Prop :=
  bs = [] ∨ (t.status.result = .ok ∧ ⟨a, bs.length⟩ ∈ s.writeRanges i ∧ a + bs.length ≤ s.cfg.memBytes)

theorem State.slice_in_window {s : State} (h : s.inRange s.aSrc.toNat s.aLen.toNat = true) (h0 : s.aLen.toNat ≠ 0) :
    s.aSrc.toNat + s.aLen.toNat ≤ s.cfg.memBytes :=
  (s.inRange_iff_of_pos (Nat.pos_of_ne_zero h0)).1 h

theorem mask_writes (s : State) (p : Nat) :
    ∃ t a bs, writesAlways (.mask p) s t a bs ∧ writesInside (.mask p) s t a bs := by
  cases hr : s.inRange s.aSrc.toNat s.aLen.toNat with
  | false =>
    exact ⟨s.raise .outbound (boundsFault s.aSrc.toNat s.aLen.toNat), 0, [],
      fun m _ => execMask_out (s.setMem m) p hr, .inl rfl⟩
  | true =>
    refine ⟨{ s with maskPhase := BitVec.ofNat 2 (p + s.aLen.toNat) }.finish, s.aSrc.toNat, maskRef s.slice s.key p,
      fun m hm => ?_, ?_⟩
    · rw [← hm (by simp [State.readRanges])]
      exact execMask_in (s.setMem m) p hr
    · by_cases h0 : s.aLen.toNat = 0
      · left
        exact List.eq_nil_of_length_eq_zero (by simp [h0])
      · right
        have := State.slice_in_window hr h0
        simpa [State.writeRanges, State.sliceRange] using ⟨rfl, this⟩

theorem ser_writes (s : State) (m : Bool) :
    ∃ t a bs, writesAlways (.ser m) s t a bs ∧ writesInside (.ser m) s t a bs := by
  cases hc : (checkTxHeader s.ctrl s.txHdr s.aLen.toNat).or (checkTxRole s.ctrl m) with
  | some e => exact ⟨endError s e.kind.code 0#16 e.info0 e.info1, 0, [], fun _ _ => exec_ser_of_check hc, .inl rfl⟩
  | none =>
    obtain ⟨hh, hr⟩ := Option.or_eq_none_iff.1 hc
    rw [checkTxHeader_eq_none] at hh
    rw [checkTxRole_eq_none] at hr
    have hall (m' : Memory) := exec_ser_of_accepted (s := s.setMem m') hh hr
    by_cases hsrc : s.inRange s.aSrc.toNat s.aLen.toNat = true
    · by_cases hdst : s.aDst.toNat + (txLen m s.aLen.toNat + s.aLen.toNat) ≤ s.cfg.memBytes
      · refine ⟨endOk { s with txOutLen := BitVec.ofNat 64 (txLen m s.aLen.toNat + s.aLen.toNat) }, s.aDst.toNat,
          txFrame s m, fun m' hm => ?_, .inr ⟨rfl, ?_, ?_⟩⟩
        · have hframe : txFrame (s.setMem m') m = txFrame s m := by
            simp only [txFrame, hm (by simp [State.readRanges])]
            rfl
          rw [← hframe]
          exact (hall m').trans ((if_pos hsrc).trans (if_pos hdst))
        · simp [State.writeRanges, txFrame_length, txHeaderLen_eq]
        · rwa [txFrame_length]
      · exact ⟨endError s 0x41#8 0#16 s.aDst (BitVec.ofNat 64 (txLen m s.aLen.toNat + s.aLen.toNat)), 0, [],
          fun m' _ => (hall m').trans ((if_pos hsrc).trans (if_neg hdst)), .inl rfl⟩
    · exact ⟨endError s 0x41#8 0#16 s.aSrc s.aLen, 0, [], fun m' _ => (hall m').trans (if_neg hsrc), .inl rfl⟩

theorem u8feed_writes (s : State) : ∃ t, writesAlways .u8feed s t 0 [] := by
  by_cases hr : s.inRange s.aSrc.toNat s.aLen.toNat = true
  · by_cases hrun : runUtf8 s.u8State s.slice = .reject
    · by_cases hs : s.u8State = .reject
      · exact ⟨endError s 0x0C#8 1007#16 0#64 8#64, fun _ _ => exec_u8feed_of_reject hr hs⟩
      · obtain ⟨before, b, after, hslice, hbefore, hb⟩ := runUtf8_first_reject _ _ hs hrun
        exact ⟨endError { s with u8State := .reject, u8Count := s.u8Count + BitVec.ofNat 64 before.length } 0x0C#8 1007#16
          (BitVec.ofNat 64 before.length) ((runUtf8 s.u8State before).code.setWidth 64),
          fun m hm => exec_u8feed_of_rejects hr ((hm (by simp [State.readRanges])).trans hslice) hbefore hb⟩
    · refine ⟨endOk { s with u8State := runUtf8 s.u8State s.slice, u8Count := s.u8Count + s.aLen }, fun m hm => ?_⟩
      have hslice := hm (by simp [State.readRanges])
      rw [exec_u8feed_of_ends (s := s.setMem m) hr (by rwa [hslice]), hslice]
      rfl
  · exact ⟨endError s 0x41#8 0#16 s.aSrc s.aLen, fun _ _ => exec_u8feed_of_out_of_range (Bool.eq_false_iff.2 hr)⟩

theorem u8fin_writes (s : State) : ∃ t, writesAlways .u8fin s t 0 [] := by
  by_cases hs : s.u8State = .accept
  · exact ⟨endOk { s with u8Count := 0#64 }, fun _ _ => exec_u8fin_of_accept hs⟩
  · exact ⟨endError { s with u8State := .reject } 0x0C#8 1007#16 s.u8Count (s.u8State.code.setWidth 64),
      fun _ _ => exec_u8fin_of_ne_accept hs⟩

/-- The range R64 gives a PARSE that ends OK is where it places the payload. -/
theorem payloadPlaced_mem_parseWrites {s : State} {z : Bool} {buf : List Byte} {h : FrameHeader} {a : Nat}
    {bs : List Byte} (hp : parseHeader s.ctrl s.maxFrame buf = .ok h) (hbuf : buf.length = s.aLen.toNat)
    (hr : s.inRange s.aSrc.toNat s.aLen.toNat = true) (hplace : payloadPlaced s z h a bs) :
    bs = [] ∨ (⟨a, bs.length⟩ ∈ s.parseWrites z buf ∧ a + bs.length ≤ s.cfg.memBytes) := by
  obtain ⟨b1, rest, hcons, rfl, hlen, hall, hext, -⟩ := parseHeader_b0 hp
  obtain ⟨-, -, hnil⟩ | ⟨hbs, hplace⟩ := hplace
  · exact .inl hnil
  · by_cases h0 : h.len = 0
    · exact .inl (List.eq_nil_of_length_eq_zero (hbs.trans h0))
    · right
      have hwin := State.slice_in_window hr (by omega)
      rw [hcons, hbs]
      simp only [State.parseWrites, if_neg (Nat.not_lt.2 hext), ← hlen, if_neg h0]
      obtain ⟨rfl, hm, rfl⟩ | ⟨rfl, hd, rfl⟩ := hplace
      · refine ⟨?_, by omega⟩
        simp [hm, FrameHeader.hdrLen]
      · exact ⟨by simp, (s.inRange_iff_of_pos (Nat.pos_of_ne_zero h0)).1 hd⟩

theorem codec_writes {i : Instr} (hi : isCodec i) (s : State) :
    ∃ t a bs, writesAlways i s t a bs ∧ writesInside i s t a bs := by
  obtain ⟨z, head, hhead, hexec, hranges⟩ := exec_of_isCodec hi s
  obtain ⟨t, a, bs, hall, hend⟩ := s.parseBuffer_setMem z (head s.slice)
  have hread : s.readRanges i ≠ [] := by
    obtain ⟨z, rfl⟩ | ⟨b, hb⟩ := hi
    · simp [State.readRanges]
    · cases i <;> cases hb <;> simp [State.readRanges]
  refine ⟨t, a, bs, fun m hm => ?_, ?_⟩
  · rw [hexec, hm hread, hall]
  · obtain ⟨-, hnil⟩ | ⟨h, hr, hp, hok, -, hplace⟩ := hend
    · exact .inl hnil
    · rw [writesInside, hranges, s.presentSlice_of_inRange hr]
      exact (payloadPlaced_mem_parseWrites hp (by simp [hhead]) hr hplace).imp_right fun hin => ⟨hok, hin⟩

/-- What every instruction does to memory, its ranges included (R64, R65). -/
theorem exec_writes (i : Instr) (s : State) : ∃ t a bs, writesAlways i s t a bs ∧ writesInside i s t a bs := by
  have quiet {i : Instr} : (∃ t, writesAlways i s t 0 []) → ∃ t a bs, writesAlways i s t a bs ∧ writesInside i s t a bs :=
    fun ⟨t, h⟩ => ⟨t, 0, [], h, .inl rfl⟩
  cases i using instr_kinds with
  | mask p => exact mask_writes s p
  | ser m => exact ser_writes s m
  | u8rst => exact quiet ⟨endOk { s with u8State := .accept, u8Count := 0#64 }, fun _ _ => rfl⟩
  | u8feed => exact quiet (u8feed_writes s)
  | u8fin => exact quiet (u8fin_writes s)
  | codec i hi => exact codec_writes hi s

end Sys2Proof.Machine
end

/-! PROOFS of the family 'other': how every command ends (40_command_issue.md, 60_exceptions.md). -/
section
namespace Sys2Proof.Machine

open Sys2Proof.Safety

/-- The memory a command leaves is the one it found, with one byte list written. -/
theorem exec_mem {i : Instr} {s t : State} (h : exec i s = .next t) :
    ∃ a bs, t.mem = s.mem.writeBytes a bs ∧ writesInside i s t a bs := by
  obtain ⟨u, a, bs, hall, hin⟩ := exec_writes i s
  cases h.symm.trans (hall s.mem fun _ => rfl)
  exact ⟨a, bs, rfl, hin⟩

/-- Settles O12: the bytes written lie in a write range. -/
theorem commandsWriteOnlyTheirRanges : Obligations.CommandsWriteOnlyTheirRanges := by
  intro i s t a h hout
  obtain ⟨b, bs, hmem, rfl | ⟨-, hrange, -⟩⟩ := exec_mem h
  · rw [hmem]
    rfl
  · have : ¬ (b ≤ a ∧ a < b + bs.length) := hout _ hrange
    rw [hmem, Memory.read_writeBytes_outside _ _ (by omega)]

/-- Settles O14: there are bytes written only when the end is OK. -/
theorem failedCommandWritesNoMemory : Obligations.FailedCommandWritesNoMemory := by
  intro i s t h hres
  obtain ⟨a, bs, hmem, rfl | ⟨hok, -⟩⟩ := exec_mem h
  · exact hmem
  · exact absurd hok hres

/-- A command reads the slice or nothing. -/
theorem State.readRanges_eq (s : State) (i : Instr) : s.readRanges i = [] ∨ s.readRanges i = [s.sliceRange] := by
  cases i with
  | u8rst | u8fin => exact .inl rfl
  | _ => exact .inr rfl

/-- Settles O13: over both memories the command ends the same and writes the same bytes at the same place. -/
theorem commandsReadOnlyTheirRanges : Obligations.CommandsReadOnlyTheirRanges := by
  intro i s m hagree
  obtain ⟨t, a, bs, hall, -⟩ := exec_writes i s
  have hslice (hread : s.readRanges i ≠ []) : (s.setMem m).slice = s.slice := by
    rw [(s.readRanges_eq i).resolve_left hread] at hagree
    exact Memory.readBytes_congr fun x hlo hhi => hagree _ (List.mem_singleton.2 rfl) x hlo hhi
  refine ⟨_, _, hall s.mem fun _ => rfl, hall m hslice, rfl, fun x => ?_⟩
  simp only [State.setMem_mem, Memory.read_writeBytes]
  split_ifs
  · exact .inr rfl
  · exact .inl ⟨rfl, rfl⟩

/-! ## The ends of every command, said once -/

/-- Byte 0 of the frame an instruction that runs the codec decodes: its own, or the buffered one. -/
def codecByte0 (i : Instr) (s : State) : Byte :=
  match encode i with
  | .frameByte0 b => b
  | .command _ => byte0 s


theorem codecByte0_frame {i : Instr} {b : Byte} (h : encode i = .frameByte0 b) (s : State) : codecByte0 i s = b := by
  rw [codecByte0, h]

/-- Each error SER's checks raise is one of these kinds (R202, R203). -/
def serKinds : List ErrorKind :=
  [.reservedOpcode, .reservedBitsSet, .fragmentedControlFrame, .controlFrameTooLarge, .unmaskedClientFrame,
    .maskedServerFrame, .frameTooLarge]

/-- Each error a PARSE raises is one of these kinds (R162 to R168). -/
def parseKinds : List ErrorKind := .invalidUtf8 :: .protocolViolation :: .boundsFault :: serKinds

/-- How an instruction can end in `t`, one constructor per end. -/
inductive Ends (s : State) : Instr → State → Prop
  | maskDone (p : Nat) (m : Memory) :
    Ends s (.mask p) { s with mem := m, maskPhase := BitVec.ofNat 2 (p + s.aLen.toNat) }.finish
  | maskOut (p : Nat) : Ends s (.mask p) (s.raise .outbound (boundsFault s.aSrc.toNat s.aLen.toNat))
  | serCheck (m : Bool) (e : CmdError) (hk : e.kind ∈ serKinds) : Ends s (.ser m) (s.raise .outbound e)
  | serOut (m : Bool) (a n : Nat) : Ends s (.ser m) (s.raise .outbound (boundsFault a n))
  | serDone (m : Bool) (mem : Memory) :
    Ends s (.ser m) { s with mem := mem, txOutLen := BitVec.ofNat 64 (txHeaderLen m s.aLen.toNat + s.aLen.toNat) }.finish
  | u8rst : Ends s .u8rst { s with u8State := .accept, u8Count := 0#64 }.finish
  | feedOut : Ends s .u8feed (s.raise .inbound (boundsFault s.aSrc.toNat s.aLen.toNat))
  | feedSticky (hs : s.u8State = .reject) : Ends s .u8feed (s.raise .inbound (invalidUtf8 0#64 .reject))
  | feedEnds (hs : s.u8State ≠ .reject) :
    Ends s .u8feed { s with u8State := runUtf8 s.u8State s.slice, u8Count := s.u8Count + s.aLen }.finish
  | feedRejects (n : Word) (t : Utf8State) :
    Ends s .u8feed ({ s with u8State := .reject, u8Count := s.u8Count + n }.raise .inbound (invalidUtf8 n t))
  | finDone (hs : s.u8State = .accept) : Ends s .u8fin { s with u8Count := 0#64 }.finish
  | finError : Ends s .u8fin ({ s with u8State := .reject }.raise .inbound (invalidUtf8 s.u8Count s.u8State))
  | needMore (i : Instr) (hi : isCodec i) (n : Nat) : Ends s i (s.needMore n)
  | parseError (i : Instr) (hi : isCodec i) (e : CmdError) (hk : e.kind ∈ parseKinds) :
    Ends s i (s.parseRaise (.parsedFrame (frameOpcode (codecByte0 i s))) e)
  | parseDone (i : Instr) (hi : isCodec i) (m : Memory) (buf p : List Byte) (h : FrameHeader) (addr : Word) (c : RxClose)
    (hp : parseHeader s.ctrl s.maxFrame buf = .ok h) (hlen : p.length = h.len)
    (hc : rxCloseOf (frameOpcode h.b0) p = .ok c) : Ends s i ({ s with mem := m }.parseDone h addr c)

theorem checkTx_kind {c : Ctrl} {h : Byte} {len : Nat} {m : Bool} {e : CmdError}
    (hc : (checkTxHeader c h len).or (checkTxRole c m) = some e) : e.kind ∈ serKinds := by
  obtain hc | ⟨-, hc⟩ := Option.or_eq_some_iff.1 hc
  · unfold checkTxHeader at hc
    split_ifs at hc <;> cases hc <;> simp [serKinds]
  · unfold checkTxRole at hc
    split_ifs at hc <;> cases hc <;> simp [serKinds]

/-- The checks on the first two bytes (R162, R164). -/
theorem twoByteCheck_kind {c : Ctrl} {b0 b1 : Byte} {e : CmdError} (hc : (checkByte0 c b0).or (checkRole c b1) = some e) :
    e.kind ∈ parseKinds := by
  obtain hc | ⟨-, hc⟩ := Option.or_eq_some_iff.1 hc
  · unfold checkByte0 at hc
    split_ifs at hc <;> cases hc <;> simp [parseKinds, serKinds]
  · unfold checkRole at hc
    split_ifs at hc <;> cases hc <;> simp [parseKinds, serKinds]

/-- The checks on the length (R163). -/
theorem lengthCheck_kind {c : Ctrl} {mf : Word} {op : BitVec 4} {l7 : BitVec 7} {len : Nat} {e : CmdError}
    (hc : (checkLengthForm c l7 len).or (checkLength mf op len) = some e) : e.kind ∈ parseKinds := by
  obtain hc | ⟨-, hc⟩ := Option.or_eq_some_iff.1 hc
  · unfold checkLengthForm at hc
    split_ifs at hc <;> cases hc <;> simp [parseKinds, serKinds]
  · unfold checkLength at hc
    split_ifs at hc <;> cases hc <;> simp [parseKinds, serKinds]

theorem parseHeader_kind {c : Ctrl} {mf : Word} {buf : List Byte} {e : CmdError}
    (hp : parseHeader c mf buf = .error (.error e)) : e.kind ∈ parseKinds := by
  unfold parseHeader at hp
  split at hp
  · cases hp
  · cases hp
  · split at hp
    · next hc => cases hp; exact twoByteCheck_kind hc
    · split at hp
      · cases hp
      · split at hp
        · next hc => cases hp; exact lengthCheck_kind hc
        · split_ifs at hp <;> cases hp

theorem ends_mask {s t : State} {p : Nat} (h : exec (.mask p) s = .next t) : Ends s (.mask p) t := by
  change execMask p s = _ at h
  cases hr : s.inRange s.aSrc.toNat s.aLen.toNat with
  | false => cases (execMask_out s p hr).symm.trans h; exact .maskOut p
  | true => cases (execMask_in s p hr).symm.trans h; exact .maskDone p _

theorem ends_ser {s t : State} {m : Bool} (h : exec (.ser m) s = .next t) : Ends s (.ser m) t := by
  change execSer m s = _ at h
  obtain ⟨e, hc, he⟩ | ⟨-, ⟨-, he⟩ | ⟨-, -, he⟩ | ⟨-, -, he⟩⟩ := execSer_cases s m <;> cases he.symm.trans h
  · exact .serCheck m e (checkTx_kind hc)
  · exact .serOut m _ _
  · exact .serOut m _ _
  · exact .serDone m _

theorem ends_u8feed {s t : State} (h : exec .u8feed s = .next t) : Ends s .u8feed t := by
  change execU8feed s = _ at h
  unfold execU8feed at h
  split_ifs at h with hr hs
  · cases h
    exact .feedSticky hs
  · by_cases hrun : runUtf8 s.u8State s.slice = .reject
    · obtain ⟨before, b, after, hslice, hbefore, hb⟩ := runUtf8_first_reject _ _ hs hrun
      rw [hslice, feed_rejects _ 0 before after b hbefore hb] at h
      cases h
      exact .feedRejects _ _
    · rw [feed_ends _ 0 _ hrun] at h
      cases h
      exact .feedEnds hs
  · cases h
    exact .feedOut

theorem ends_u8fin {s t : State} (h : exec .u8fin s = .next t) : Ends s .u8fin t := by
  change execU8fin s = _ at h
  unfold execU8fin at h
  split_ifs at h with hs <;> cases h
  · exact .finDone hs
  · exact .finError

theorem State.slice_cons (s : State) (h : s.aLen.toNat ≠ 0) : ∃ rest, s.slice = byte0 s :: rest := by
  obtain ⟨n, hn⟩ := Nat.exists_eq_succ_of_ne_zero h
  exact ⟨s.mem.readBytes (s.aSrc.toNat + 1) n, by rw [State.slice, hn]; rfl⟩

/-- An error of a PARSE comes from the frame it decodes; only an empty buffer has none, which raises no error. -/
theorem parseSource_of_isCodec {i : Instr} (hi : isCodec i) (s : State) :
    ∃ (z : Bool) (buf : List Byte), buf.length = s.aLen.toNat ∧ exec i s = .next (s.parseBuffer z buf) ∧
      (s.aLen.toNat ≠ 0 → parseSource buf = .parsedFrame (frameOpcode (codecByte0 i s))) := by
  obtain ⟨z, rfl⟩ | ⟨b, hb⟩ := hi
  · refine ⟨z, s.slice, s.slice_length, rfl, fun h => ?_⟩
    obtain ⟨rest, hrest⟩ := s.slice_cons h
    rw [hrest]
    rfl
  · refine ⟨s.pendingZ, withByte0 b s.slice, by simp, exec_of_frameByte0 hb s, fun h => ?_⟩
    obtain ⟨rest, hrest⟩ := s.slice_cons h
    rw [hrest, codecByte0_frame hb]
    rfl

theorem ends_codec {i : Instr} {s t : State} (hi : isCodec i) (h : exec i s = .next t) : Ends s i t := by
  obtain ⟨z, buf, hlen, hexec, hsrc⟩ := parseSource_of_isCodec hi s
  cases hexec.symm.trans h
  by_cases h0 : s.aLen.toNat = 0
  · obtain rfl := List.eq_nil_of_length_eq_zero (hlen.trans h0)
    rw [State.parseBuffer_of_needMore (n := 2) z (by simp [State.inRange, h0]) rfl]
    exact .needMore i hi 2
  · obtain ⟨n, -, -, he⟩ | ⟨e, he, hk⟩ | ⟨hd, c, m, addr, -, hp, hc, he, -, -⟩ := s.parseBuffer_cases z buf
    · rw [he]
      exact .needMore i hi n
    · rw [he, hsrc h0]
      refine .parseError i hi e ?_
      obtain hp | hk | hk | hk := hk
      · exact parseHeader_kind hp
      all_goals rw [hk]; decide
    · rw [he]
      exact .parseDone i hi m buf _ hd addr c hp (payload_length hp) hc

/-- Every end of every instruction. -/
theorem exec_ends {i : Instr} {s t : State} (h : exec i s = .next t) : Ends s i t := by
  cases i using instr_kinds with
  | mask p => exact ends_mask h
  | ser m => exact ends_ser h
  | u8rst => cases h; exact .u8rst
  | u8feed => exact ends_u8feed h
  | u8fin => exact ends_u8fin h
  | codec i hi => exact ends_codec hi h

/-! ## What holds of every end -/

section
variable (w : Word) (r : CmdResult) (e : Byte) (h : BitVec 16)

@[simp] theorem Status.completed_busy : (Status.completed w r e h).busy = false := rfl
@[simp] theorem Status.completed_result : (Status.completed w r e h).result = r := rfl
@[simp] theorem Status.completed_err : (Status.completed w r e h).err = e := rfl
@[simp] theorem Status.completed_closeHint : (Status.completed w r e h).closeHint = h := rfl
@[simp] theorem Status.completed_lastOp : (Status.completed w r e h).lastOp = w.extractLsb' 0 8 := rfl

end

/-- What R123 says of every end: `BUSY` falls, `LAST_OP` is the command's opcode, the vector key is gone; the error fields
are 0 or, on an ERROR, a code and a hint that R263 gives it. -/
def completed (s t : State) : Prop :=
  t.status.busy = false ∧ t.status.lastOp = s.cmd.extractLsb' 0 8 ∧ t.vkey = none ∧
    (t.status.result ≠ .error →
      t.status.err = 0#8 ∧ t.status.closeHint = 0#16 ∧ t.errInfo0 = 0#64 ∧ t.errInfo1 = 0#64) ∧
    (t.status.result = .error →
      ∃ (src : ErrorSource) (k : ErrorKind), t.status.err = k.code ∧ t.status.closeHint = closeHint src k)

theorem completed_finish {s u : State} (h : u.cmd = s.cmd) : completed s u.finish := by
  simp [completed, h]

theorem completed_needMore (s : State) (n : Nat) : completed s (s.needMore n) := by
  simp [completed]

theorem completed_raise {s u : State} (src : ErrorSource) (e : CmdError) (h : u.cmd = s.cmd) :
    completed s (u.raise src e) := by
  exact ⟨rfl, congrArg (BitVec.extractLsb' 0 8) h, rfl, fun hr => absurd rfl hr, fun _ => ⟨src, e.kind, rfl, rfl⟩⟩

theorem Ends.completed {i : Instr} {s t : State} (h : Ends s i t) : completed s t := by
  cases h with
  | maskDone | serDone | u8rst | feedEnds | finDone => exact completed_finish rfl
  | maskOut | serCheck | serOut | feedOut | feedSticky | feedRejects | finError => exact completed_raise _ _ rfl
  | needMore => exact completed_needMore s _
  | parseError => exact completed_raise (u := { s with rxNeed := 0#64 }) _ _ rfl
  | parseDone => exact completed_finish rfl

theorem serKinds_code {k : ErrorKind} (h : k ∈ serKinds) :
    k.code ∈ [0x03#8, 0x04#8, 0x05#8, 0x06#8, 0x07#8, 0x08#8, 0x09#8, 0x41#8] := by
  revert k
  decide

theorem parseKinds_code {k : ErrorKind} (h : k ∈ parseKinds) :
    k.code ∈ [0x03#8, 0x04#8, 0x05#8, 0x06#8, 0x07#8, 0x08#8, 0x09#8, 0x0C#8, 0x0E#8, 0x41#8] := by
  revert k
  decide

/-- Settles O10, end by end. -/
theorem everyCommandCompletes : Obligations.EveryCommandCompletes := by
  intro i s
  obtain ⟨t, ht⟩ := exec_next i s
  have hends := exec_ends ht
  obtain ⟨hbusy, hlast, hvkey, hclear, herror⟩ := hends.completed
  refine ⟨t, ht, hbusy, hlast, hvkey, hclear, fun hres => ⟨herror hres, ?_⟩, ?_⟩
  · cases hends with
    | maskOut p => simp [encode, boundsFault, ErrorKind.code]
    | serCheck m e hk => simpa [encode] using serKinds_code hk
    | serOut m a n => simp [encode, boundsFault, ErrorKind.code]
    | feedOut | feedSticky | feedRejects => simp [encode, boundsFault, invalidUtf8, ErrorKind.code]
    | finError => simp [encode, invalidUtf8, ErrorKind.code]
    | parseError i hi e hk =>
      refine ⟨?_, ?_, ?_, fun _ => parseKinds_code hk, ?_, ?_⟩
      · rintro rfl
        simp at hi
      · rintro ⟨p, rfl⟩
        simp at hi
      · rintro ⟨p, rfl⟩
        simp at hi
      · rintro rfl
        simp at hi
      · rintro rfl
        simp at hi
    | maskDone | serDone | u8rst | feedEnds | finDone | needMore | parseDone => cases hres
  · cases hends with
    | needMore i hi n => exact fun _ => hi
    | _ => exact nofun

/-! ### The registers each end writes (R125) -/

theorem not_isCodec_iff (i : Instr) : ¬ isCodec i ↔ (∀ z, i ≠ .parse z) ∧ ∀ b, encode i ≠ .frameByte0 b := by
  simp only [isCodec, not_or, not_exists, ne_eq]

section
variable {i : Instr} {s t : State} (h : Ends s i t)
include h

/-- No end writes a configuration or operand register, a parameter, or the host's side. -/
theorem Ends.setup_eq :
    t.cfg = s.cfg ∧ t.ctrl = s.ctrl ∧ t.sel = s.sel ∧ t.maxFrame = s.maxFrame ∧ t.cmd = s.cmd ∧ t.aSrc = s.aSrc ∧
      t.aDst = s.aDst ∧ t.aLen = s.aLen ∧ t.key = s.key ∧ t.txHdr = s.txHdr ∧ t.port = s.port ∧ t.turns = s.turns ∧
      t.draws = s.draws := by
  cases h <;> exact ⟨rfl, rfl, rfl, rfl, rfl, rfl, rfl, rfl, rfl, rfl, rfl, rfl, rfl⟩

theorem Ends.maskPhase_eq (hi : (∀ p, i ≠ .mask p) ∨ t.status.result ≠ .ok) : t.maskPhase = s.maskPhase := by
  cases h with
  | maskDone => simp at hi
  | _ => rfl

theorem Ends.txOutLen_eq (hi : (∀ m, i ≠ .ser m) ∨ t.status.result ≠ .ok) : t.txOutLen = s.txOutLen := by
  cases h with
  | serDone => simp at hi
  | _ => rfl

theorem Ends.received_eq (hi : ¬ isCodec i ∨ t.status.result ≠ .ok) :
    t.rxHdr = s.rxHdr ∧ t.rxLen = s.rxLen ∧ t.rxKey = s.rxKey ∧ t.rxPayload = s.rxPayload ∧
      t.rxConsumed = s.rxConsumed ∧ t.rxClose = s.rxClose := by
  cases h with
  | parseDone i hc => simp [hc] at hi
  | _ => exact ⟨rfl, rfl, rfl, rfl, rfl, rfl⟩

theorem Ends.rxNeed_eq (hi : ¬ isCodec i) : t.rxNeed = s.rxNeed := by
  cases h with
  | needMore i hc | parseError i hc | parseDone i hc => exact absurd hc hi
  | _ => rfl

theorem Ends.rxNeed_eq_zero (hi : isCodec i) (hr : t.status.result ≠ .needMore) : t.rxNeed = 0#64 := by
  cases h with
  | needMore => exact absurd rfl hr
  | parseError | parseDone => rfl
  | _ => simp at hi

theorem Ends.validator_eq (hrst : i ≠ .u8rst) (hfeed : i ≠ .u8feed) (hfin : i ≠ .u8fin) :
    t.u8State = s.u8State ∧ t.u8Count = s.u8Count := by
  cases h with
  | u8rst => exact absurd rfl hrst
  | feedOut | feedSticky | feedEnds | feedRejects => exact absurd rfl hfeed
  | finDone | finError => exact absurd rfl hfin
  | _ => exact ⟨rfl, rfl⟩

theorem Ends.result_of_u8rst (hi : i = .u8rst) : t.status.result = .ok := by
  cases h with
  | u8rst => rfl
  | needMore i hc | parseError i hc | parseDone i hc => simp [hi] at hc
  | _ => cases hi

/-- U8FIN keeps the state when it ends OK, and the count when it does not (R225). -/
theorem Ends.validator_of_u8fin (hi : i = .u8fin) :
    (t.status.result = .ok → t.u8State = s.u8State) ∧ (t.status.result = .error → t.u8Count = s.u8Count) := by
  cases h with
  | finDone => exact ⟨fun _ => rfl, nofun⟩
  | finError => exact ⟨nofun, fun _ => rfl⟩
  | needMore i hc | parseError i hc | parseDone i hc => simp [hi] at hc
  | _ => cases hi

end

/-- Settles O11, by what the ends write. -/
theorem commandsWriteOnlyTheirRegisters : Obligations.CommandsWriteOnlyTheirRegisters := by
  refine ⟨fun i s t h => ?_, fun s => rfl⟩
  have hends := exec_ends h
  rw [← not_isCodec_iff]
  exact ⟨hends.setup_eq, hends.maskPhase_eq, hends.txOutLen_eq, hends.received_eq, hends.rxNeed_eq,
    hends.rxNeed_eq_zero, hends.validator_eq, hends.result_of_u8rst, fun hi => (hends.validator_of_u8fin hi).1,
    fun hi => (hends.validator_of_u8fin hi).2⟩

/-! ## Close hints (R263) -/

theorem inboundHint_eq (k : ErrorKind) :
    k.inboundHint =
      if k.code = 0x0C#8 then 1007#16
      else if k.code = 0x09#8 then 1009#16
      else if k.code ∈ [0x03#8, 0x04#8, 0x05#8, 0x06#8, 0x07#8, 0x08#8, 0x0E#8] then 1002#16
      else 0#16 := by
  cases k <;> decide

/-- A claim on byte 0 of the frame an instruction decodes, for PARSE and for the frame instructions. -/
theorem isCodec_and_of_byte0 {i : Instr} {s : State} {P : Byte → Prop}
    (h : (∃ z, i = .parse z ∧ P (byte0 s)) ∨ ∃ b, encode i = .frameByte0 b ∧ P b) :
    isCodec i ∧ P (codecByte0 i s) := by
  obtain ⟨z, rfl, hP⟩ | ⟨b, hb, hP⟩ := h
  · exact ⟨.inl ⟨z, rfl⟩, hP⟩
  · exact ⟨.inr ⟨b, hb⟩, (codecByte0_frame hb s).symm ▸ hP⟩

section
variable {i : Instr} {s t : State} (h : Ends s i t) (hr : t.status.result = .error)
include h hr

theorem Ends.closeHint_outbound (hi : (∃ p, i = .mask p) ∨ ∃ m, i = .ser m) : t.status.closeHint = 0#16 := by
  cases h with
  | maskOut | serCheck | serOut => rfl
  | parseError i hc => obtain ⟨p, rfl⟩ | ⟨m, rfl⟩ := hi <;> simp at hc
  | feedOut | feedSticky | feedRejects | finError => simp at hi
  | _ => cases hr

theorem Ends.closeHint_closeFrame (hi : isCodec i ∧ frameOpcode (codecByte0 i s) = 8#4) : t.status.closeHint = 0#16 := by
  obtain ⟨hcodec, hop⟩ := hi
  cases h with
  | parseError => exact if_pos hop
  | maskOut | serCheck | serOut | feedOut | feedSticky | feedRejects | finError => simp at hcodec
  | _ => cases hr

theorem Ends.closeHint_inbound
    (hi : (isCodec i ∧ frameOpcode (codecByte0 i s) ≠ 8#4) ∨ i = .u8feed ∨ i = .u8fin) :
    t.status.closeHint =
      if t.status.err = 0x0C#8 then 1007#16
      else if t.status.err = 0x09#8 then 1009#16
      else if t.status.err ∈ [0x03#8, 0x04#8, 0x05#8, 0x06#8, 0x07#8, 0x08#8, 0x0E#8] then 1002#16
      else 0#16 := by
  cases h with
  | parseError i hc e hk =>
    have hop : frameOpcode (codecByte0 i s) ≠ 8#4 := by
      obtain ⟨-, hop⟩ | rfl | rfl := hi
      · exact hop
      · simp at hc
      · simp at hc
    exact (if_neg hop).trans (inboundHint_eq e.kind)
  | feedOut => exact inboundHint_eq .boundsFault
  | feedSticky | feedRejects | finError => exact inboundHint_eq .invalidUtf8
  | maskOut | serCheck | serOut => simp at hi
  | _ => cases hr

end

/-- Settles O16: the three sources of an error R263 tells apart. -/
theorem closeHintFollowsTable : Obligations.CloseHintFollowsTable := by
  intro i s t h hr
  have hends := exec_ends h
  refine ⟨hends.closeHint_outbound hr, fun hi => hends.closeHint_closeFrame hr ?_,
    fun hi => hends.closeHint_inbound hr ?_⟩
  · exact isCodec_and_of_byte0 (P := fun b => frameOpcode b = 8#4) hi
  · rw [← or_assoc] at hi
    exact hi.imp_left (isCodec_and_of_byte0 (P := fun b => frameOpcode b ≠ 8#4))

/-- A slice out of range is not empty. -/
theorem State.inRange_slice_eq_false {s : State} (h0 : s.aLen ≠ 0#64) (h : s.cfg.memBytes < s.aSrc.toNat + s.aLen.toNat) :
    s.inRange s.aSrc.toNat s.aLen.toNat = false := by
  rw [Bool.eq_false_iff, ne_eq, State.inRange_slice_iff]
  exact not_or.2 ⟨h0, Nat.not_le.2 h⟩

theorem boundsFault_slice (s : State) : boundsFault s.aSrc.toNat s.aLen.toNat = ⟨.boundsFault, s.aSrc, s.aLen⟩ := by
  simp [boundsFault]

/-- Settles O15: each command checks its slice before all else. -/
theorem sliceOutOfRangeRaisesBoundsFault : Obligations.SliceOutOfRangeRaisesBoundsFault := by
  intro s h0 h
  have hr := State.inRange_slice_eq_false h0 h
  have hparse (z : Bool) (buf : List Byte) : s.parseBuffer z buf = endParseError s 0x41#8 0#16 s.aSrc s.aLen := by
    rw [State.parseBuffer_of_out z buf hr, boundsFault_slice]
    rfl
  have hcodec {i : Instr} (hi : isCodec i) : exec i s = .next (endParseError s 0x41#8 0#16 s.aSrc s.aLen) := by
    obtain ⟨z, buf, -, hexec, -⟩ := parseSource_of_isCodec hi s
    rw [hexec, hparse]
  refine ⟨fun p => ?_, exec_u8feed_of_out_of_range hr, fun z => hcodec (.inl ⟨z, rfl⟩), fun f a b c =>
    ⟨?_, ?_, ?_, ?_, ?_, ?_⟩⟩
  · exact (execMask_out s p hr).trans (by rw [boundsFault_slice]; rfl)
  all_goals exact hcodec (.inr ⟨_, rfl⟩)

/-- Settles O47: the ends of U8RST alone leave REJECT. -/
theorem rejectSurvivesUntilReset : Obligations.RejectSurvivesUntilReset := by
  intro i s t hs h
  cases exec_ends h with
  | u8rst => exact .inr rfl
  | feedEnds hne => exact absurd hs hne
  | finDone hacc => cases hs.symm.trans hacc
  | feedRejects | finError => exact .inl rfl
  | _ => exact .inl hs

end Sys2Proof.Machine
end

/-! PROOFS of the family 'other': one step (40_command_issue.md, 60_exceptions.md). -/
section
namespace Sys2Proof.Machine

open Sys2Proof.Safety

/-! ## Who moves -/

theorem State.mover_of_busy {s : State} (hb : s.status.busy = true) :
    s.mover = some (if s.port.queue = [] then .engine else s.turns.headD .engine) := by
  unfold State.mover State.contended
  rw [hb]
  cases s.port.queue <;> rfl

theorem State.mover_of_idle {s : State} (hb : s.status.busy = false) :
    s.mover = if s.port.queue = [] then none else some .host := by
  unfold State.mover State.contended
  rw [hb]
  cases s.port.queue <;> rfl

theorem State.afterTurn_of_contended {s : State} (hb : s.status.busy = true) (hq : s.port.queue ≠ []) :
    s.afterTurn = { s with turns := s.turns.tail } := by
  simp [State.afterTurn, State.contended, hb, hq]

theorem State.afterTurn_of_idle {s : State} (hb : s.status.busy = false) : s.afterTurn = s := by
  simp [State.afterTurn, State.contended, hb]

/-! ## What a step is, by who moves -/

theorem step_of_engine {s : State} {i : Instr} (hm : s.mover = some .engine) (hd : decodeCommand s.cmd = .ok i) :
    step s = exec i s.afterTurn := by
  rw [step, hm]
  simp only [hd]

theorem step_of_host {s : State} (hm : s.mover = some .host) : step s = s.afterTurn.hostStep := by
  rw [step, hm]

theorem step_of_none {s : State} (hm : s.mover = none) : step s = .next s := by
  rw [step, hm]

/-- The host's step makes the first move of its queue. -/
theorem State.hostStep_cons {s : State} {m : HostMove} {rest : List HostMove} (hq : s.port.queue = m :: rest) :
    s.hostStep = { s with port := { s.port with queue := rest } }.hostMove m := by
  rw [State.hostStep, hq]

/-- Settles O7: the two ways the engine comes to move. -/
theorem engineStepRunsPendingCommand : Obligations.EngineStepRunsPendingCommand := by
  intro s i hb hd
  refine ⟨fun hq => ?_, fun hq ht => ?_⟩
  · rw [step_of_engine (by rw [State.mover_of_busy hb, if_pos hq]) hd, State.afterTurn_of_queue_nil hq]
  · rw [step_of_engine (by rw [State.mover_of_busy hb, if_neg hq, ht]) hd, State.afterTurn_of_contended hb hq]

/-- Settles O8: while idle the host moves when its queue holds a move, and nobody else does. -/
theorem idleBlockKeepsItsState : Obligations.IdleBlockKeepsItsState := by
  intro s hb
  refine ⟨fun hq => ?_, fun m rest hq => ?_⟩
  · exact step_of_none (by rw [State.mover_of_idle hb, if_pos hq])
  · rw [step_of_host (by rw [State.mover_of_idle hb, hq]; rfl), State.afterTurn_of_idle hb, State.hostStep_cons hq]

/-- Settles O9: the buffered byte 0 is the instruction's own. -/
theorem parseRunsTheFrameItDecodes : Obligations.ParseRunsTheFrameItDecodes := by
  intro s i h0 hd
  obtain ⟨-, hb⟩ := encode_of_decodeFrameByte hd
  obtain ⟨rest, hrest⟩ := s.slice_cons (by simpa [BitVec.toNat_eq] using h0)
  rw [exec_of_frameByte0 hb, State.codecFrame, hrest]
  change Host.Outcome.next (s.parseBuffer s.pendingZ s.slice) = _
  rw [hrest]
  rfl

end Sys2Proof.Machine
end

/-! PROOFS of the family 'other': the UTF-8 validator (44_utf8.md). -/
section
namespace Sys2Proof.Machine

open Sys2Proof.Safety

/-! ## The transition table (R221) -/

/-- The row ACCEPT, read from the state it leads to. -/
theorem delta_accept_iff (b : Byte) :
    (delta .accept b = .accept ↔ within b 0x00 0x7F) ∧ (delta .accept b = .t1 ↔ within b 0xC2 0xDF) ∧
      (delta .accept b = .t2 ↔ within b 0xE1 0xEC ∨ within b 0xEE 0xEF) ∧ (delta .accept b = .t3 ↔ within b 0xF1 0xF3) ∧
      (delta .accept b = .e0 ↔ within b 0xE0 0xE0) ∧ (delta .accept b = .ed ↔ within b 0xED 0xED) ∧
      (delta .accept b = .f0 ↔ within b 0xF0 0xF0) ∧ (delta .accept b = .f4 ↔ within b 0xF4 0xF4) := by
  unfold within
  revert b
  decide

/-- Settles O40, row by row. -/
theorem utf8TransitionTable : Obligations.Utf8TransitionTable := by
  refine ⟨⟨rfl, rfl, rfl, rfl, rfl, rfl, rfl, rfl, rfl⟩, fun b => ?_⟩
  revert b
  decide

/-! ## The language of the automaton (R222) -/

/-- The bytes lead from `t` to ACCEPT and do not leave it. -/
def completes : Utf8State → List Byte → Prop
  | t, [] => t = .accept
  | t, b :: q => t ≠ .accept ∧ completes (delta t b) q

theorem runUtf8_of_completes {t : Utf8State} {q : List Byte} (h : completes t q) : runUtf8 t q = .accept := by
  induction q generalizing t with
  | nil => exact h
  | cons b q ih => exact ih h.2

/-- A run that ends in ACCEPT passes it first after a part that completes the state it began in. -/
theorem exists_completes_of_runUtf8 {t : Utf8State} {bs : List Byte} (h : runUtf8 t bs = .accept) :
    ∃ q rest, bs = q ++ rest ∧ completes t q ∧ runUtf8 .accept rest = .accept := by
  induction bs generalizing t with
  | nil => exact ⟨[], [], rfl, h, rfl⟩
  | cons b bs ih =>
    by_cases ht : t = .accept
    · exact ⟨[], b :: bs, rfl, ht, ht ▸ h⟩
    · obtain ⟨q, rest, rfl, hq, hrest⟩ := ih h
      exact ⟨b :: q, rest, rfl, ⟨ht, hq⟩, hrest⟩

@[simp] theorem completes_accept (q : List Byte) : completes .accept q ↔ q = [] := by
  cases q <;> simp [completes]

@[simp] theorem completes_reject (q : List Byte) : ¬ completes .reject q := by
  induction q with
  | nil => simp [completes]
  | cons b q ih => exact fun h => ih h.2

@[simp] theorem completes_nil (t : Utf8State) : completes t [] ↔ t = .accept := Iff.rfl

/-- A state all of whose good bytes lie in one range and lead to one state. -/
theorem completes_cons_of_row {t u : Utf8State} {lo hi : Nat} (ht : t ≠ .accept)
    (hrow : ∀ b, delta t b = if byteIn b lo hi then u else .reject) (b : Byte) (q : List Byte) :
    completes t (b :: q) ↔ within b lo hi ∧ completes u q := by
  rw [completes, hrow, ← byteIn_iff]
  cases byteIn b lo hi <;> simp [ht]

@[simp] theorem completes_t1_cons (b : Byte) (q : List Byte) :
    completes .t1 (b :: q) ↔ within b 0x80 0xBF ∧ q = [] := by
  rw [completes_cons_of_row (t := .t1) (u := .accept) (by decide) fun _ => rfl, completes_accept]

@[simp] theorem completes_t2_cons (b : Byte) (q : List Byte) :
    completes .t2 (b :: q) ↔ within b 0x80 0xBF ∧ completes .t1 q :=
  completes_cons_of_row (t := .t2) (by decide) (fun _ => rfl) b q

@[simp] theorem completes_t3_cons (b : Byte) (q : List Byte) :
    completes .t3 (b :: q) ↔ within b 0x80 0xBF ∧ completes .t2 q :=
  completes_cons_of_row (t := .t3) (by decide) (fun _ => rfl) b q

@[simp] theorem completes_e0_cons (b : Byte) (q : List Byte) :
    completes .e0 (b :: q) ↔ within b 0xA0 0xBF ∧ completes .t1 q :=
  completes_cons_of_row (t := .e0) (by decide) (fun _ => rfl) b q

@[simp] theorem completes_ed_cons (b : Byte) (q : List Byte) :
    completes .ed (b :: q) ↔ within b 0x80 0x9F ∧ completes .t1 q :=
  completes_cons_of_row (t := .ed) (by decide) (fun _ => rfl) b q

@[simp] theorem completes_f0_cons (b : Byte) (q : List Byte) :
    completes .f0 (b :: q) ↔ within b 0x90 0xBF ∧ completes .t2 q :=
  completes_cons_of_row (t := .f0) (by decide) (fun _ => rfl) b q

@[simp] theorem completes_f4_cons (b : Byte) (q : List Byte) :
    completes .f4 (b :: q) ↔ within b 0x80 0x8F ∧ completes .t2 q :=
  completes_cons_of_row (t := .f4) (by decide) (fun _ => rfl) b q

/-- The rows E1-EC and EE-EF of R222, which lead to one state, put together. -/
theorem three_byte_rows (a b c : Byte) :
    wellFormedSequence [a, b, c] ↔ within c 0x80 0xBF ∧
      ((within a 0xE0 0xE0 ∧ within b 0xA0 0xBF) ∨
        ((within a 0xE1 0xEC ∨ within a 0xEE 0xEF) ∧ within b 0x80 0xBF) ∨
        (within a 0xED 0xED ∧ within b 0x80 0x9F)) := by
  simp only [wellFormedSequence]
  rw [or_and_right, or_assoc, or_comm (a := within a 0xED 0xED ∧ within b 0x80 0x9F)]

/-- A well-formed sequence is a first byte and what completes the state it leads to. -/
theorem wellFormedSequence_cons (a : Byte) (q : List Byte) :
    wellFormedSequence (a :: q) ↔ completes (delta .accept a) q := by
  obtain ⟨haccept, ht1, ht2, ht3, he0, hed, hf0, hf4⟩ := delta_accept_iff a
  match q with
  | [] => simp [wellFormedSequence, haccept]
  | [b] =>
    simp only [wellFormedSequence, ← ht1]
    cases delta .accept a <;> simp
  | [b, c] =>
    rw [three_byte_rows, ← he0, ← ht2, ← hed]
    cases delta .accept a <;> simp [and_comm]
  | [b, c, d] =>
    simp only [wellFormedSequence, ← hf0, ← ht3, ← hf4]
    cases delta .accept a <;> simp [and_comm, and_left_comm]
  | b :: c :: d :: e :: r =>
    simp only [wellFormedSequence]
    cases delta .accept a <;> simp

theorem not_wellFormedSequence_nil : ¬ wellFormedSequence [] := id

/-- Valid UTF-8 leads from ACCEPT to ACCEPT. -/
theorem runUtf8_of_validUtf8 {bs : List Byte} (h : validUtf8 bs) : runUtf8 .accept bs = .accept := by
  obtain ⟨parts, hparts, rfl⟩ := h
  induction parts with
  | nil => rfl
  | cons q parts ih =>
    rw [List.flatten_cons, runUtf8_append]
    cases q with
    | nil => exact absurd (hparts [] List.mem_cons_self) not_wellFormedSequence_nil
    | cons a q =>
      have hq := (wellFormedSequence_cons a q).1 (hparts _ List.mem_cons_self)
      rw [runUtf8_cons, runUtf8_of_completes hq]
      exact ih fun p hp => hparts p (List.mem_cons_of_mem _ hp)

/-- A byte list that leads from ACCEPT to ACCEPT splits at each return to ACCEPT. -/
theorem validUtf8_of_runUtf8 (bs : List Byte) (h : runUtf8 .accept bs = .accept) : validUtf8 bs := by
  match bs with
  | [] => exact ⟨[], by simp, rfl⟩
  | a :: bs =>
    obtain ⟨q, rest, hsplit, hq, hrest⟩ := exists_completes_of_runUtf8 (t := delta .accept a) h
    have hlen : rest.length < (a :: bs).length := by rw [hsplit]; simp
    obtain ⟨parts, hparts, rfl⟩ := validUtf8_of_runUtf8 rest hrest
    refine ⟨(a :: q) :: parts, ?_, by simp [hsplit]⟩
    simpa [wellFormedSequence_cons] using ⟨hq, hparts⟩
termination_by bs.length

theorem validUtf8_iff (bs : List Byte) : validUtf8 bs ↔ runUtf8 .accept bs = .accept :=
  ⟨runUtf8_of_validUtf8, validUtf8_of_runUtf8 bs⟩

/-- Every state but REJECT has bytes that lead to ACCEPT. -/
theorem exists_runUtf8_eq_accept {t : Utf8State} (h : t ≠ .reject) : ∃ rest, runUtf8 t rest = .accept := by
  cases t with
  | accept => exact ⟨[], rfl⟩
  | t1 => exact ⟨[0x80], rfl⟩
  | t2 | ed => exact ⟨[0x80, 0x80], rfl⟩
  | e0 => exact ⟨[0xA0, 0x80], rfl⟩
  | t3 | f4 => exact ⟨[0x80, 0x80, 0x80], rfl⟩
  | f0 => exact ⟨[0x90, 0x80, 0x80], rfl⟩
  | reject => exact absurd rfl h

/-- Settles O41: ACCEPT by `validUtf8_iff`; every state but REJECT can still be completed, and REJECT cannot. -/
theorem automatonAcceptsExactlyUtf8 : Obligations.AutomatonAcceptsExactlyUtf8 := by
  refine fun bs => ⟨(validUtf8_iff bs).symm, fun h => ?_, fun ⟨rest, h⟩ hrej => ?_⟩
  · obtain ⟨rest, hrest⟩ := exists_runUtf8_eq_accept h
    exact ⟨rest, (validUtf8_iff _).2 ((runUtf8_append _ _ _).trans hrest)⟩
  · rw [validUtf8_iff, runUtf8_append, hrej, runUtf8_reject] at h
    cases h

/-! ## U8FEED over a slice in range, in terms of the run of the automaton (R224) -/

/-- How many bytes the automaton takes before the first that leads to REJECT. -/
def taken : Utf8State → List Byte → Nat
  | _, [] => 0
  | t, b :: bs => if delta t b = .reject then 0 else taken (delta t b) bs + 1

@[simp] theorem taken_reject (bs : List Byte) : taken .reject bs = 0 := by cases bs <;> rfl

theorem taken_append (t : Utf8State) (xs ys : List Byte) :
    taken t (xs ++ ys) = taken t xs + taken (runUtf8 t xs) ys := by
  induction xs generalizing t with
  | nil => simp [taken]
  | cons x xs ih =>
    by_cases hx : delta t x = .reject
    · simp [taken, hx]
    · simp [taken, hx, ih, Nat.add_right_comm]

theorem taken_of_ne_reject {t : Utf8State} {bs : List Byte} (h : runUtf8 t bs ≠ .reject) : taken t bs = bs.length := by
  induction bs generalizing t with
  | nil => rfl
  | cons b bs ih =>
    have hb : delta t b ≠ .reject := ne_reject_of_runUtf8_ne_reject h
    simp [taken, hb, ih h]

/-- In range, U8FEED leaves the state the run ends in and counts the bytes taken; it ends OK when the run stays out of
REJECT. -/
theorem exec_u8feed_in_range {s t : State} (hr : s.inRange s.aSrc.toNat s.aLen.toNat = true)
    (h : exec .u8feed s = .next t) :
    t.u8State = runUtf8 s.u8State s.slice ∧ t.u8Count = s.u8Count + BitVec.ofNat 64 (taken s.u8State s.slice) ∧
      (t.status.result = .ok ↔ runUtf8 s.u8State s.slice ≠ .reject) := by
  by_cases hrun : runUtf8 s.u8State s.slice = .reject
  · by_cases hs : s.u8State = .reject
    · cases h.symm.trans (exec_u8feed_of_reject hr hs)
      simp [endError, hs]
    · obtain ⟨before, b, after, hslice, hbefore, hb⟩ := runUtf8_first_reject _ _ hs hrun
      cases h.symm.trans (exec_u8feed_of_rejects hr hslice hbefore hb)
      have htaken : taken s.u8State s.slice = before.length := by
        rw [hslice, taken_append, taken_of_ne_reject hbefore]
        simp [taken, hb]
      simp [endError, hrun, htaken]
  · cases h.symm.trans (exec_u8feed_of_ends hr hrun)
    simp [endOk, hrun, taken_of_ne_reject hrun]

/-- Settles O46: the run of the slice from ACCEPT, by the ends of the three commands. -/
theorem validatorVerdictIsUtf8 : Obligations.ValidatorVerdictIsUtf8 := by
  intro s a b c hr ha hb hc
  cases ha
  have hfeed hr := exec_u8feed_in_range hr hb
  obtain ⟨hstate, -, -⟩ := hfeed hr
  change b.u8State = runUtf8 .accept s.slice at hstate
  rw [validUtf8_iff, ← hstate]
  by_cases hacc : b.u8State = .accept
  · cases hc.symm.trans (exec_u8fin_of_accept hacc)
    exact ⟨⟨fun _ => hacc, fun _ => rfl⟩, fun _ => ⟨hacc, rfl⟩⟩
  · cases hc.symm.trans (exec_u8fin_of_ne_accept hacc)
    exact ⟨⟨nofun, fun h => absurd h hacc⟩, nofun⟩

/-! ## A slice in two parts -/

theorem memBytes_le (p : Params) : p.memBytes ≤ 2 ^ 64 := by
  have := p.memBytesLess16.isLt
  unfold Params.memBytes
  omega

/-- The second part of a slice of the window begins where the first ends; only an empty one may wrap to address 0. -/
theorem second_part_address (p : Params) {a n1 n2 : Word} (hwin : a.toNat + n1.toNat + n2.toNat ≤ p.memBytes) :
    n2.toNat = 0 ∨ (a + n1).toNat = a.toNat + n1.toNat := by
  have := memBytes_le p
  simp only [BitVec.toNat_add]
  omega

/-- A slice of the window is its first part, then its second. -/
theorem Memory.readBytes_parts (m : Memory) (p : Params) {a n1 n2 : Word}
    (hwin : a.toNat + n1.toNat + n2.toNat ≤ p.memBytes) (hlen : n1.toNat + n2.toNat < 2 ^ 64) :
    m.readBytes a.toNat (n1 + n2).toNat = m.readBytes a.toNat n1.toNat ++ m.readBytes (a + n1).toNat n2.toNat := by
  have hsum : (n1 + n2).toNat = n1.toNat + n2.toNat := by simp; omega
  rw [hsum, Memory.readBytes_add]
  obtain h0 | haddr := second_part_address p hwin
  · simp [h0, Memory.readBytes]
  · rw [haddr]

theorem mem_of_u8feed {s t : State} (h : exec .u8feed s = .next t) : t.mem = s.mem := by
  obtain ⟨a, bs, hmem, rfl | ⟨-, hrange, -⟩⟩ := exec_mem h
  · exact hmem
  · cases hrange

/-- Settles O45: the run over the two parts is the run over the whole, and so is the count. -/
theorem feedingInPartsIsFeedingWhole : Obligations.FeedingInPartsIsFeedingWhole := by
  intro s t u v n1 n2 hwin hlen ht hu hv
  have hmem := mem_of_u8feed ht
  obtain ⟨hcfg, -⟩ := (exec_ends ht).setup_eq
  obtain ⟨hts, htc, htr⟩ := exec_u8feed_in_range (by simp [State.inRange]; omega) ht
  obtain ⟨hus, huc, hur⟩ := exec_u8feed_in_range (by simp [State.inRange, hcfg]; omega) hu
  obtain ⟨hvs, hvc, hvr⟩ := exec_u8feed_in_range (by simp [State.inRange]; omega) hv
  simp only [State.slice, hmem] at hts htc htr hus huc hur hvs hvc hvr
  rw [Memory.readBytes_parts s.mem s.cfg hwin hlen] at hvs hvc hvr
  generalize s.mem.readBytes s.aSrc.toNat n1.toNat = first at *
  generalize s.mem.readBytes (s.aSrc + n1).toNat n2.toNat = second at *
  rw [hts] at hus huc hur
  rw [runUtf8_append] at hvs hvr
  refine ⟨hus.trans hvs.symm, ?_, ?_⟩
  · rw [huc, htc, hvc, taken_append, BitVec.ofNat_add, BitVec.add_assoc]
  · rw [hvr, htr, hur]
    exact ⟨fun h => ⟨ne_reject_of_runUtf8_ne_reject h, h⟩, fun h => h.2⟩

end Sys2Proof.Machine
end

/-! PROOFS of the family 'other': MASK (41_mask.md). -/
section
namespace Sys2Proof.Machine

open Sys2Proof.Safety

/-! ## The bytes MASK leaves -/

/-- A masked slice written back in place, byte by byte. -/
theorem Memory.read_writeBytes_maskRef (m : Memory) (a n x : Nat) (k : BitVec 32) (p : Nat) :
    (m.writeBytes a (maskRef (m.readBytes a n) k p)).read x =
      if a ≤ x ∧ x < a + n then m.read x ^^^ keyByte k (x - a + p) else m.read x := by
  rw [Memory.read_writeBytes, maskRef_length, Memory.readBytes_length]
  refine if_ctx_congr Iff.rfl (fun hx => ?_) fun _ => rfl
  have haddr : a + (x - a) = x := by omega
  rw [List.getD_eq_getElem?_getD, maskRef_getElem?, Memory.readBytes_getElem? _ _ _ _ (by omega), haddr]
  rfl

/-- MASK in range: each byte of the slice XORed with its key byte, and the next phase. -/
theorem exec_mask_in_range {s t : State} {p : Nat} (hr : s.inRange s.aSrc.toNat s.aLen.toNat = true)
    (h : exec (.mask p) s = .next t) :
    t.maskPhase = BitVec.ofNat 2 (p + s.aLen.toNat) ∧ ∀ x, t.mem.read x =
      if s.aSrc.toNat ≤ x ∧ x < s.aSrc.toNat + s.aLen.toNat then s.mem.read x ^^^ keyByte s.key (x - s.aSrc.toNat + p)
      else s.mem.read x := by
  cases h.symm.trans (execMask_in s p hr)
  exact ⟨rfl, fun x => Memory.read_writeBytes_maskRef _ _ _ x _ _⟩

theorem exec_mask_out_of_range {s t : State} {p : Nat} (hr : s.inRange s.aSrc.toNat s.aLen.toNat = false)
    (h : exec (.mask p) s = .next t) : t.mem = s.mem := by
  cases h.symm.trans (execMask_out s p hr)
  rfl

/-- Settles O21: in range each byte is XORed twice with one key byte; out of range nothing is written. -/
theorem maskTwiceRestoresMemory : Obligations.MaskTwiceRestoresMemory := by
  intro s t u p ht hu x
  obtain ⟨hcfg, -, -, -, -, hsrc, -, hlen, hkey, -⟩ := (exec_ends ht).setup_eq
  have hrange : t.inRange t.aSrc.toNat t.aLen.toNat = s.inRange s.aSrc.toNat s.aLen.toNat := by
    rw [State.inRange, State.inRange, hcfg, hsrc, hlen]
  cases hr : s.inRange s.aSrc.toNat s.aLen.toNat with
  | false => rw [exec_mask_out_of_range (hrange.trans hr) hu, exec_mask_out_of_range hr ht]
  | true =>
    rw [(exec_mask_in_range (hrange.trans hr) hu).2, (exec_mask_in_range hr ht).2, hsrc, hlen, hkey]
    split_ifs
    · rw [BitVec.xor_assoc, BitVec.xor_self, BitVec.xor_zero]
    · rfl

/-- Settles O22: a byte of the second part gets the key byte of its offset in the whole slice. -/
theorem maskPhaseChains : Obligations.MaskPhaseChains := by
  intro s t u v p n1 n2 hp hwin hlen ht hu hv
  obtain ⟨hcfg, -, -, -, -, -, -, -, hkey, -⟩ := (exec_ends ht).setup_eq
  obtain ⟨htp, htm⟩ := exec_mask_in_range (by simp [State.inRange]; omega) ht
  obtain ⟨hup, hum⟩ := exec_mask_in_range (by simp [State.inRange, hcfg]; omega) hu
  obtain ⟨hvp, hvm⟩ := exec_mask_in_range (by simp [State.inRange]; omega) hv
  have hphase : t.maskPhase.toNat = (p + n1.toNat) % 4 := by rw [htp]; simp
  have hsum : (n1 + n2).toNat = n1.toNat + n2.toNat := by simp; omega
  refine ⟨?_, fun x => ?_⟩
  · rw [hup, hvp, hphase, hsum]
    apply BitVec.eq_of_toNat_eq
    simp only [BitVec.toNat_ofNat]
    omega
  · rw [hum, hvm, htm, hkey, hphase, hsum]
    have haddr := second_part_address s.cfg hwin
    dsimp only
    by_cases hfirst : s.aSrc.toNat ≤ x ∧ x < s.aSrc.toNat + n1.toNat
    · rw [if_neg (by omega), if_pos hfirst, if_pos (by omega)]
    · by_cases hsecond : s.aSrc.toNat + n1.toNat ≤ x ∧ x < s.aSrc.toNat + n1.toNat + n2.toNat
      · rw [if_pos (by omega), if_neg hfirst, if_pos (by omega)]
        exact congrArg _ (keyByte_congr _ (by omega))
      · rw [if_neg (by omega), if_neg hfirst, if_neg (by omega)]

theorem keyByte_zero (j : Nat) : keyByte 0#32 j = 0#8 := by simp [keyByte]

/-- MASK reads its phase modulo 4. -/
theorem exec_mask_congr_phase (s : State) {p q : Nat} (h : p % 4 = q % 4) : exec (.mask p) s = exec (.mask q) s := by
  have hphase : BitVec.ofNat 2 (p + s.aLen.toNat) = BitVec.ofNat 2 (q + s.aLen.toNat) := by
    apply BitVec.eq_of_toNat_eq
    simp only [BitVec.toNat_ofNat]
    omega
  simp only [exec, execMask, State.maskSlice_eq, maskRef_congr_phase _ _ h, hphase]

/-- Settles O23, by the bytes MASK leaves; phases count modulo 4. -/
theorem maskWithoutLengthOrKeyChangesNoByte : Obligations.MaskWithoutLengthOrKeyChangesNoByte := by
  refine fun s t p h => ⟨fun hzero x => ?_, exec_mask_congr_phase s (Nat.add_mod_right p 4)⟩
  cases hr : s.inRange s.aSrc.toNat s.aLen.toNat with
  | false => rw [exec_mask_out_of_range hr h]
  | true =>
    rw [(exec_mask_in_range hr h).2]
    split_ifs with hx
    · obtain h0 | h0 := hzero
      · simp only [h0, BitVec.toNat_ofNat] at hx
        omega
      · rw [h0, keyByte_zero, BitVec.xor_zero]
    · rfl

/-! ## The pipeline's structure (R143 to R145) -/

theorem laneBytes_cases (sel : BitVec 2) :
    laneBytes sel = 4 ∨ laneBytes sel = 16 ∨ laneBytes sel = 32 ∨ laneBytes sel = 64 := by
  unfold laneBytes
  split_ifs <;> simp

/-- Settles O20: arithmetic on each of the four vector widths. -/
theorem pipelineSplitsSliceAtLaneBoundaries : Obligations.PipelineSplitsSliceAtLaneBoundaries := by
  intro sel a n p k
  have hw := laneBytes_cases sel
  refine ⟨rfl, ?_, ?_, bulk_le _ a n, ?_, fun m b hb => ?_⟩
  · unfold headLen
    obtain h | h | h | h := hw <;> rw [h] <;> omega
  · unfold headLen
    obtain h | h | h | h := hw <;> rw [h] <;> omega
  · unfold bulkVectors
    obtain h | h | h | h := hw <;> rw [h] <;> omega
  · obtain ⟨c, hc⟩ := laneBytes_dvd sel
    generalize headLen (laneBytes sel) a n = h
    have hkey : keyByte k ((p + h) % 4 + b) = keyByte k (p + (h + m * laneBytes sel + b)) :=
      keyByte_congr k (by rw [hc, Nat.mul_left_comm]; omega)
    rw [← keyByte_eq_wireKey, ← hkey]
    simp [vectorKey, hb]

end Sys2Proof.Machine
end

/-! PROOFS of the family 'other': the registers as the host reads and writes them (10_state.md, 40_command_issue.md). -/
section
namespace Sys2Proof.Machine

open Sys2Proof.Safety

/-! ## The packed registers by bit positions (R22, R23, R27, R34, R40) -/

/-- Fields put side by side are fields shifted to their places. -/
theorem setWidth_append_shift {a b : Nat} (x : BitVec a) (y : BitVec b) (n : Nat) :
    (x ++ y).setWidth n = x.setWidth n <<< b ||| y.setWidth n :=
  BitVec.setWidth_append_eq_shiftLeft_setWidth_or

theorem setWidth_ofBool (b : Bool) : (BitVec.ofBool b).setWidth 64 = bit b := by cases b <;> rfl

theorem setWidth_resultCode (r : CmdResult) :
    r.code.setWidth 64 = if r = .ok then 0#64 else if r = .needMore then 1#64 else 2#64 := by
  cases r <;> rfl

/-- The fields listed from the top, or from bit 0. -/
theorem or_reverse (a b c d : Word) : a ||| b ||| c ||| d = d ||| c ||| b ||| a := by ac_rfl

theorem or_reverse_five (a b c d e : Word) : a ||| b ||| c ||| d ||| e = e ||| d ||| c ||| b ||| a := by ac_rfl

theorem Status.toWord_eq (t : Status) : t.toWord = statusBits t := by
  rw [← BitVec.setWidth_eq t.toWord, Status.toWord, statusBits]
  simp only [setWidth_append_shift, setWidth_ofBool, setWidth_resultCode, BitVec.shiftLeft_or_distrib,
    ← BitVec.shiftLeft_add, BitVec.setWidth_zero, BitVec.zero_shiftLeft, BitVec.zero_or, BitVec.or_zero]
  simp only [Nat.reduceAdd]
  exact or_reverse_five _ _ _ _ _

theorem RxHdr.toWord_eq (h : RxHdr) : h.toWord = rxHdrBits h := by
  rw [← BitVec.setWidth_eq h.toWord, RxHdr.toWord, rxHdrBits]
  simp only [setWidth_append_shift, setWidth_ofBool, BitVec.shiftLeft_or_distrib, ← BitVec.shiftLeft_add,
    BitVec.setWidth_zero, BitVec.zero_shiftLeft, BitVec.zero_or]
  simp only [Nat.reduceAdd]
  exact or_reverse _ _ _ _

theorem RxClose.toWord_eq (c : RxClose) : c.toWord = rxCloseBits c := by
  rw [← BitVec.setWidth_eq c.toWord, RxClose.toWord, rxCloseBits]
  simp only [setWidth_append_shift, setWidth_ofBool, BitVec.shiftLeft_or_distrib, ← BitVec.shiftLeft_add,
    BitVec.setWidth_zero, BitVec.zero_shiftLeft, BitVec.zero_or, BitVec.or_zero]
  simp only [Nat.reduceAdd]
  exact or_reverse _ _ _ _

theorem Ctrl.toWord_eq (c : Ctrl) : c.toWord = ctrlBits c := by
  obtain ⟨a, b, d, e, f, g⟩ := c
  revert a b d e f g
  decide

theorem capWord_eq_bits (p : Params) :
    capWord p = 1#64 ||| bit p.hasV128 <<< 1 ||| bit p.hasV256 <<< 2 ||| bit p.hasV512 <<< 3 := by
  unfold capWord
  cases p.hasV512 <;> cases p.hasV256 <;> cases p.hasV128 <;> rfl

theorem setWidth_utf8Code (t : Utf8State) : t.code.setWidth 64 = utf8Code t := by cases t <;> rfl

/-! ## The host's register moves (R44, R120) -/

theorem registerForm_iff (off width : Nat) : registerForm off width = true ↔ width = 8 ∧ off % 8 = 0 := by
  simp [registerForm]

theorem State.hostMove_regRead (s : State) {off : Nat} (h8 : off % 8 = 0) (hoff : off < 0x100) :
    s.hostMove (.regRead off 8) = .next (s.answer (s.regRead off)) := by
  simp [State.hostMove, (registerForm_iff off 8).2 ⟨rfl, h8⟩, Nat.not_le.2 hoff]

theorem State.hostMove_regWrite (s : State) {off : Nat} (v : Word) (h8 : off % 8 = 0) (hoff : off < 0x100) :
    s.hostMove (.regWrite off 8 v) = .next (s.regWrite off v) := by
  simp [State.hostMove, (registerForm_iff off 8).2 ⟨rfl, h8⟩, Nat.not_le.2 hoff]

/-- Settles O55: the form is checked first, then the space. -/
theorem otherRegisterAccessesAreRefused : Obligations.OtherRegisterAccessesAreRefused := by
  intro s off width v
  refine ⟨fun h => ?_, fun hw h8 hoff => ?_⟩
  · have hform : registerForm off width = false := by
      rw [Bool.eq_false_iff, ne_eq, registerForm_iff]
      omega
    simp [State.hostMove, hform]
  · simp [State.hostMove, (registerForm_iff off width).2 ⟨hw, h8⟩, hoff]

/-! ## Reads (R120) -/

theorem State.regRead_of_idle {s : State} (r : Reg) (hb : s.status.busy = false) :
    s.regRead r.offset = s.regValue r := by
  rw [State.regRead_offset, hb]
  rfl

/-- A register that is no result reads its value while a command is pending too. -/
theorem State.regRead_of_not_result (s : State) {r : Reg} (hr : r.isResult = false) :
    s.regRead r.offset = s.regValue r := by
  rw [State.regRead_offset, hr, Bool.and_false]
  rfl

/-- While a command is pending bit 0 of `STATUS` reads 1. -/
theorem State.regRead_status_of_busy {s : State} (hb : s.status.busy = true) : (s.regRead 0x030).getLsbD 0 = true := by
  have hread : s.regRead 0x030 = s.busyAnswer .status := by
    change s.regRead Reg.status.offset = _
    rw [State.regRead_offset, hb]
    rfl
  rw [hread, State.busyAnswer, if_pos rfl]
  rw [BitVec.getLsbD_append]
  rfl

/-- Settles O54: the results are free but for bit 0 of `STATUS`, every other register answers its value. -/
theorem readsWhileBusy : Obligations.ReadsWhileBusy := by
  intro s hb
  refine ⟨State.regRead_status_of_busy hb, ?_, fun off h => s.regRead_reserved h,
    fun off h8 hoff => s.hostMove_regRead h8 hoff, ?_⟩
  · intro off hoff
    obtain ⟨r, hr, rfl⟩ : ∃ r ∈ [Reg.id, .cap, .ctrl, .dispatch, .maxFrame, .cmd, .aSrc, .aDst, .aLen, .key, .txHdr],
        r.offset = off := List.mem_map.1 hoff
    have hres : r.isResult = false := by
      revert r
      decide
    rw [State.regRead_of_not_result _ hres, State.regRead_of_not_result _ hres]
    cases r with
    | status => cases hres
    | _ => rfl
  · simp only [State.hostMove, hb]
    rfl

/-! ## Writes (R24, R25, R45) -/

/-- The bits of a word under a mask of its low `n` bits. -/
theorem and_setWidth {n : Nat} (v : Word) (m : BitVec n) :
    v &&& m.setWidth 64 = (v.extractLsb' 0 n &&& m).setWidth 64 := by
  ext i hi
  by_cases h : i < n
  · simp [h, hi]
  · simp [h, BitVec.getLsbD_of_ge m i (Nat.le_of_not_lt h)]

theorem Ctrl.toWord_ofWord (v : Word) : (Ctrl.ofWord v).toWord = v &&& 0x77#64 := by
  have hlow : Ctrl.ofWord v = Ctrl.ofWord ((v.extractLsb' 0 8).setWidth 64) := by simp [Ctrl.ofWord]
  have hbyte : ∀ b : Byte, (Ctrl.ofWord (b.setWidth 64)).toWord = (b &&& 0x77#8).setWidth 64 := by decide
  rw [hlow, hbyte]
  exact (and_setWidth v 0x77#8).symm

theorem setWidth_extractLsb'_allOnes (v : Word) (n : Nat) :
    (v.extractLsb' 0 n).setWidth 64 = v &&& (BitVec.allOnes n).setWidth 64 := by
  rw [and_setWidth, BitVec.and_allOnes]

/-- The paths that are absent, read from `DISPATCH` and `CAP` (R24). -/
theorem hasPath_eq_false_iff (p : Params) (x : BitVec 2) :
    p.hasPath x = false ↔
      (x = 1#2 ∧ p.hasV128 = false) ∨ (x = 2#2 ∧ p.hasV256 = false) ∨ (x = 3#2 ∧ p.hasV512 = false) := by
  unfold Params.hasPath
  generalize p.hasV128 = a
  generalize p.hasV256 = b
  generalize p.hasV512 = c
  revert x a b c
  decide

/-- What a register holds after a write of `v` to it. -/
def State.writtenValue (s : State) (r : Reg) (v : Word) : Word :=
  match r with
  | .ctrl => v &&& 0x77#64
  | .dispatch => if s.cfg.hasPath (v.extractLsb' 0 2) then v &&& 3#64 else s.regValue .dispatch
  | .maxFrame => if v = 0#64 then s.maxFrame else v
  | .aSrc | .aDst | .aLen => v
  | .key => v &&& 0xFFFFFFFF#64
  | .txHdr => v &&& 0xFF#64
  | r => s.regValue r

theorem State.regValue_writeReg_same (s : State) {r : Reg} (v : Word) (hr : r ≠ .cmd) :
    (s.writeReg r v).regValue r = s.writtenValue r v := by
  cases r with
  | cmd => exact absurd rfl hr
  | ctrl => exact Ctrl.toWord_ofWord v
  | dispatch =>
    simp only [State.writeReg, State.writtenValue]
    split
    · exact setWidth_extractLsb'_allOnes v 2
    · rfl
  | maxFrame =>
    simp only [State.writeReg, State.writtenValue]
    split <;> rfl
  | key => exact setWidth_extractLsb'_allOnes v 32
  | txHdr => exact setWidth_extractLsb'_allOnes v 8
  | _ => rfl

/-- A write changes the value of no other register. -/
theorem State.regValue_writeReg_other (s : State) {r r' : Reg} (v : Word) (hr : r ≠ .cmd) (h : r' ≠ r) :
    (s.writeReg r v).regValue r' = s.regValue r' := by
  cases r with
  | cmd => exact absurd rfl hr
  | dispatch =>
    simp only [State.writeReg]
    split
    · exact State.regValue_sel s _ h
    · rfl
  | maxFrame =>
    simp only [State.writeReg]
    split
    · rfl
    · cases r' with
      | maxFrame => exact absurd rfl h
      | _ => rfl
  | ctrl =>
    cases r' with
    | ctrl => exact absurd rfl h
    | _ => rfl
  | aSrc =>
    cases r' with
    | aSrc => exact absurd rfl h
    | _ => rfl
  | aDst =>
    cases r' with
    | aDst => exact absurd rfl h
    | _ => rfl
  | aLen =>
    cases r' with
    | aLen => exact absurd rfl h
    | _ => rfl
  | key =>
    cases r' with
    | key => exact absurd rfl h
    | _ => rfl
  | txHdr =>
    cases r' with
    | txHdr => exact absurd rfl h
    | _ => rfl
  | _ => rfl

theorem State.writeReg_busy (s : State) {r : Reg} (v : Word) (hr : r ≠ .cmd) :
    (s.writeReg r v).status = s.status := by
  cases r with
  | cmd => exact absurd rfl hr
  | dispatch | maxFrame => simp only [State.writeReg]; split <;> rfl
  | _ => rfl

/-- What a register that is not `CMD` and an offset read after a write, while idle. -/
theorem State.regRead_writeReg {s : State} {r : Reg} (v : Word) (off' : Nat) (hb : s.status.busy = false) (hr : r ≠ .cmd) :
    (s.writeReg r v).regRead off' = if off' ≠ r.offset then s.regRead off' else s.writtenValue r v := by
  have hb' : (s.writeReg r v).status.busy = false := by rw [State.writeReg_busy s v hr, hb]
  cases hat : regAt off' with
  | none =>
    have hne : off' ≠ r.offset := by
      rintro rfl
      simp at hat
    rw [if_pos hne, State.regRead, State.regRead, hat]
  | some r' =>
    obtain rfl := offset_of_regAt hat
    rw [State.regRead_of_idle r' hb', State.regRead_of_idle r' hb]
    by_cases h : r' = r
    · subst h
      rw [if_neg (not_not.2 rfl), State.regValue_writeReg_same s v hr]
    · have hne : r'.offset ≠ r.offset := fun e => h (Option.some.inj (by rw [← regAt_offset r', e, regAt_offset]))
      rw [if_pos hne, State.regValue_writeReg_other s v hr h]

/-- What an offset reads after a write of `v` to it: reserved offsets ignore the write. -/
def State.writtenAt (s : State) (off : Nat) (v : Word) : Word :=
  match regAt off with
  | none => s.regRead off
  | some r => s.writtenValue r v

/-- What an offset reads after a write at another or at itself, while idle, `CMD`'s offset aside. -/
theorem State.regRead_regWrite {s : State} {off : Nat} (v : Word) (off' : Nat) (hb : s.status.busy = false)
    (hoff : off ≠ 0x028) :
    (s.regWrite off v).regRead off' =
      if off' ≠ off then s.regRead off'
      else s.writtenAt off v := by
  unfold State.writtenAt
  cases hat : regAt off with
  | none =>
    have hsame : s.regWrite off v = s := by
      rw [State.regWrite, hat]
      exact ite_id s
    rw [hsame]
    by_cases h : off' = off
    · rw [h, if_neg (not_not.2 rfl)]
    · rw [if_pos h]
  | some r =>
    obtain rfl := offset_of_regAt hat
    have hr : r ≠ .cmd := by
      rintro rfl
      exact hoff rfl
    rw [State.regWrite_offset_of_idle r v hb, State.regRead_writeReg v off' hb hr]

/-- The table of 10_state.md: what a write to each offset leaves there. -/
theorem State.writtenAt_eq {s : State} (off : Nat) (v : Word) (hb : s.status.busy = false) :
    s.writtenAt off v =
      if off = 0x010 then v &&& 0x77#64
      else if off = 0x018 then
        (if (v.extractLsb' 0 2 = 1#2 ∧ s.cfg.hasV128 = false) ∨ (v.extractLsb' 0 2 = 2#2 ∧ s.cfg.hasV256 = false) ∨
            (v.extractLsb' 0 2 = 3#2 ∧ s.cfg.hasV512 = false)
          then s.regRead 0x018 else v &&& 3#64)
      else if off = 0x020 then (if v = 0#64 then s.regRead 0x020 else v)
      else if off = 0x048 ∨ off = 0x050 ∨ off = 0x058 then v
      else if off = 0x060 then v &&& 0xFFFFFFFF#64
      else if off = 0x068 then v &&& 0xFF#64
      else s.regRead off := by
  have hread (r : Reg) : s.regRead r.offset = s.regValue r := State.regRead_of_idle r hb
  simp only [← hasPath_eq_false_iff]
  unfold State.writtenAt
  cases hat : regAt off with
  | none =>
    have hne (r : Reg) : off ≠ r.offset := by
      rintro rfl
      simp at hat
    have hctrl : off ≠ 0x010 := hne .ctrl
    have hdispatch : off ≠ 0x018 := hne .dispatch
    have hmax : off ≠ 0x020 := hne .maxFrame
    have hsrc : off ≠ 0x048 := hne .aSrc
    have hdst : off ≠ 0x050 := hne .aDst
    have hlen : off ≠ 0x058 := hne .aLen
    have hkey : off ≠ 0x060 := hne .key
    have htx : off ≠ 0x068 := hne .txHdr
    simp [hctrl, hdispatch, hmax, hsrc, hdst, hlen, hkey, htx]
  | some r =>
    obtain rfl := offset_of_regAt hat
    rw [hread r]
    cases r with
    | dispatch =>
      change (if s.cfg.hasPath (v.extractLsb' 0 2) = true then v &&& 3#64 else s.regValue .dispatch) =
        if s.cfg.hasPath (v.extractLsb' 0 2) = false then s.regRead Reg.dispatch.offset else v &&& 3#64
      rw [hread]
      cases s.cfg.hasPath (v.extractLsb' 0 2) <;> rfl
    | maxFrame =>
      change (if v = 0#64 then s.maxFrame else v) = if v = 0#64 then s.regRead Reg.maxFrame.offset else v
      rw [hread]
      rfl
    | _ => rfl

/-- Settles O52: the host's moves are the block's reads and writes, each register reads its packing, and a write leaves what
the table says. -/
theorem registerWriteReadsBack : Obligations.RegisterWriteReadsBack := by
  refine ⟨fun s off v h8 hoff => ⟨s.hostMove_regWrite v h8 hoff, fun _ => s.hostMove_regRead h8 hoff⟩, fun s hb => ⟨?_, ?_⟩,
    fun s hb => ?_, fun s off off' v hb hoff => ?_⟩
  · rw [s.hostMove_regRead (by decide) (by decide), State.hostMove, hb]
    rfl
  · have hstatus : s.regRead 0x030 = s.status.toWord := State.regRead_of_idle .status hb
    rw [hstatus, Status.toWord, hb, BitVec.getLsbD_append]
    rfl
  · have hread (r : Reg) := State.regRead_of_idle r hb
    exact ⟨hread .id, (hread .cap).trans (capWord_eq_bits _), (hread .ctrl).trans (Ctrl.toWord_eq _), hread .dispatch,
      hread .maxFrame, hread .cmd, (hread .status).trans (Status.toWord_eq _), hread .errInfo0, hread .errInfo1,
      hread .aSrc, hread .aDst, hread .aLen, hread .key, hread .txHdr, hread .txOutLen, hread .maskPhase,
      (hread .rxHdr).trans (RxHdr.toWord_eq _), hread .rxLen, hread .rxKey, hread .rxPayload, hread .rxConsumed,
      hread .rxNeed, (hread .rxClose).trans (RxClose.toWord_eq _), (hread .u8State).trans (setWidth_utf8Code _),
      hread .u8Count, fun off h => s.regRead_reserved h⟩
  · rw [State.regRead_regWrite v off' hb hoff, State.writtenAt_eq off v hb]

end Sys2Proof.Machine
end

/-! PROOFS of the family 'other': the host's moves, and the invariant (20_memory.md, 40_command_issue.md,
70_reset_and_hazards.md). -/
section
namespace Sys2Proof.Machine

open Sys2Proof.Safety

/-! ## The host's moves -/

theorem State.breaksDuty_of_idle {s : State} (hb : s.status.busy = false) (a : Nat) : s.breaksDuty a = false := by
  rw [State.breaksDuty, hb, Bool.false_and]

/-- While a command is pending, an access breaks the host's duty exactly inside the command's ranges. -/
theorem State.breaksDuty_iff {s : State} {i : Instr} (hb : s.status.busy = true) (hd : decodeCommand s.cmd = .ok i)
    (a : Nat) :
    s.breaksDuty a = true ↔ ∃ r ∈ s.readRanges i ++ s.writeRanges i, r.start ≤ a ∧ a < r.start + r.len := by
  simp only [State.breaksDuty, hb, Bool.true_and, State.runningRanges, hd, List.any_eq_true, Range.covers,
    Bool.and_eq_true, decide_eq_true_eq]

section
variable {s : State} {a : Nat}

theorem State.hostMove_memRead_outside (h : s.cfg.memBytes ≤ a) : s.hostMove (.memRead a) = .fault .hostOutsideWindow :=
  if_pos h

theorem State.hostMove_memWrite_outside (h : s.cfg.memBytes ≤ a) (b : Byte) :
    s.hostMove (.memWrite a b) = .fault .hostOutsideWindow :=
  if_pos h

variable (h : a < s.cfg.memBytes)
include h

theorem State.hostMove_memRead :
    s.hostMove (.memRead a) =
      if s.breaksDuty a then .fault .hostTouchesRunningRange else .next (s.answer ((s.mem.read a).setWidth 64)) :=
  if_neg (Nat.not_le.2 h)

theorem State.hostMove_memWrite (b : Byte) :
    s.hostMove (.memWrite a b) =
      if s.breaksDuty a then .fault .hostTouchesRunningRange else .next { s with mem := s.mem.write a b } :=
  if_neg (Nat.not_le.2 h)

end

/-- Settles O56: while idle no access breaks a duty. -/
theorem hostReadsBackWhatItWrote : Obligations.HostReadsBackWhatItWrote := by
  intro s a b hb
  refine ⟨fun h => ?_, fun h => ⟨State.hostMove_memWrite_outside h b, State.hostMove_memRead_outside h⟩⟩
  have hread : (s.setMem (s.mem.write a b)).hostMove (.memRead a) =
      .next ((s.setMem (s.mem.write a b)).answer (b.setWidth 64)) := by
    rw [State.hostMove_memRead (s := s.setMem (s.mem.write a b)) h,
      State.breaksDuty_of_idle (s := s.setMem (s.mem.write a b)) hb, State.setMem_mem, Memory.read_write_same]
    rfl
  refine ⟨s.setMem (s.mem.write a b), _, ?_, rfl, fun x => Memory.read_write _ _ _ _, hread, rfl, rfl, rfl⟩
  rw [State.hostMove_memWrite h, State.breaksDuty_of_idle hb]
  rfl

/-- Settles O57: the two sides of the duty. -/
theorem hostKeepsAwayFromARunningCommand : Obligations.HostKeepsAwayFromARunningCommand := by
  intro s i a b hb hd h
  rw [State.hostMove_memRead h, State.hostMove_memWrite h]
  refine ⟨fun hin => ?_, fun hout => ?_⟩
  · have hduty := (State.breaksDuty_iff hb hd a).2 hin
    exact ⟨if_pos hduty, if_pos hduty⟩
  · have hduty : ¬ s.breaksDuty a = true := by
      rw [State.breaksDuty_iff hb hd]
      exact fun ⟨r, hr, hcov⟩ => hout r hr hcov
    exact ⟨if_neg hduty, _, if_neg hduty, rfl, rfl⟩

/-- The write ranges of the pending command are those of the instruction it decodes to. -/
theorem State.mem_runningWrites {s : State} {r : Range} (h : r ∈ s.runningWrites) :
    ∃ i, decodeCommand s.cmd = .ok i ∧ r ∈ s.writeRanges i := by
  rw [State.runningWrites] at h
  split at h
  · next i hd => exact ⟨i, hd, h⟩
  · cases h

/-- Settles O58: the memory law of a reset, and the reset values. -/
theorem resetEventClearsTheBlock : Obligations.ResetEventClearsTheBlock := by
  intro s
  refine ⟨⟨s.assertReset, rfl, rfl, rfl, fun hb => ?_, fun a hout => ?_⟩, s.assertPowerOn, rfl, rfl, rfl⟩
  · exact if_neg (Bool.eq_false_iff.1 hb)
  · refine State.read_memAfterReset s fun _ r hr => ?_
    obtain ⟨i, hd, hi⟩ := State.mem_runningWrites hr
    exact hout i hd r hi

/-! ## What a step can do, said once -/

/-- How a move of the host or the platform can leave the state. -/
inductive Moved (s : State) : HostMove → State → Prop
  | answered (m : HostMove) (port : HostPort) (draws : Nat) : Moved s m { s with port := port, draws := draws }
  | wrote (off width : Nat) (v : Word) : Moved s (.regWrite off width v) (s.regWrite off v)
  | stored (a : Nat) (b : Byte) (h : a < s.cfg.memBytes) : Moved s (.memWrite a b) { s with mem := s.mem.write a b }
  | reset : Moved s .reset s.assertReset
  | powerOn : Moved s .powerOn s.assertPowerOn

theorem State.hostMove_moved {s t : State} {m : HostMove} (h : s.hostMove m = .next t) : Moved s m t := by
  cases m with
  | reset => cases h; exact .reset
  | powerOn => cases h; exact .powerOn
  | regRead off width =>
    simp only [State.hostMove] at h
    split_ifs at h; cases h
    exact .answered _ _ _
  | regWrite off width v =>
    simp only [State.hostMove] at h
    split_ifs at h; cases h
    exact .wrote _ _ _
  | poll =>
    simp only [State.hostMove] at h
    split_ifs at h <;> cases h <;> exact .answered _ _ _
  | memRead a =>
    simp only [State.hostMove] at h
    split_ifs at h; cases h
    exact .answered _ _ _
  | memWrite a b =>
    simp only [State.hostMove] at h
    split_ifs at h with hw; cases h
    exact .stored _ _ (Nat.not_le.1 hw)

/-- How a step that answers a state can leave it: with a shorter schedule, if any choice was used, the pending command
runs or completes as illegal, or the host's first move is made; or nothing moves. -/
inductive Stepped (s t : State) : Prop
  | command (turns : List Agent) (i : Instr) (hm : s.mover = some .engine)
      (h : exec i { s with turns := turns } = .next t)
  | illegal (turns : List Agent) (hm : s.mover = some .engine) (h : t = { s with turns := turns }.illegalCommand)
  | host (turns : List Agent) (m : HostMove) (rest : List HostMove) (hm : s.mover = some .host)
      (hq : s.port.queue = m :: rest)
      (h : Moved { s with turns := turns, port := { s.port with queue := rest } } m t)
  | idle (hm : s.mover = none) (h : t = s)

/-- A turn taken changes the schedule alone. -/
theorem State.afterTurn_eq (s : State) : ∃ turns, s.afterTurn = { s with turns := turns } := by
  unfold State.afterTurn
  split
  · exact ⟨_, rfl⟩
  · exact ⟨s.turns, rfl⟩

theorem State.queue_of_host {s : State} (hm : s.mover = some .host) : s.port.queue ≠ [] := by
  intro hq
  unfold State.mover State.contended at hm
  rw [hq] at hm
  cases hb : s.status.busy <;> simp [hb] at hm

theorem step_stepped {s t : State} (h : step s = .next t) : Stepped s t := by
  obtain ⟨turns, hturns⟩ := s.afterTurn_eq
  match hm : s.mover with
  | none => exact .idle hm (by cases (step_of_none hm).symm.trans h; rfl)
  | some .host =>
    obtain ⟨m, rest, hq⟩ := List.exists_cons_of_ne_nil (State.queue_of_host hm)
    rw [step_of_host hm, hturns] at h
    have hstep := State.hostStep_cons (s := { s with turns := turns }) hq
    exact .host turns m rest hm hq (State.hostMove_moved (hstep.symm.trans h))
  | some .engine =>
    cases hd : decodeCommand s.cmd with
    | ok i => exact .command turns i hm (by rw [← hturns, ← step_of_engine hm hd, h])
    | error e =>
      refine .illegal turns hm ?_
      rw [step, hm] at h
      simp only [hd] at h
      cases h
      rw [hturns]

/-! ## The parameters, and what ends a command -/

theorem State.regWrite_cases (s : State) (off : Nat) (v : Word) :
    s.regWrite off v = s ∨ s.status.busy = false ∧ ∃ r, s.regWrite off v = s.writeReg r v := by
  unfold State.regWrite
  split
  · exact .inl rfl
  · next hb =>
    split
    · exact .inl rfl
    · next r _ => exact .inr ⟨Bool.eq_false_iff.2 hb, r, rfl⟩

theorem State.writeReg_cfg (s : State) (r : Reg) (v : Word) : (s.writeReg r v).cfg = s.cfg := by
  cases r with
  | dispatch | maxFrame => unfold State.writeReg; dsimp only; split <;> rfl
  | _ => rfl

theorem Moved.cfg_eq {s t : State} {m : HostMove} (h : Moved s m t) : t.cfg = s.cfg := by
  cases h with
  | wrote off width v =>
    obtain hw | ⟨-, r, hw⟩ := s.regWrite_cases off v <;> rw [hw]
    exact s.writeReg_cfg r v
  | _ => rfl

/-- Settles O51, by what a step can do. -/
theorem stepKeepsParameters : Obligations.StepKeepsParameters := by
  intro s t h
  cases step_stepped h with
  | command turns i hm hexec => exact (exec_ends hexec).setup_eq.1
  | illegal turns hm ht => rw [ht]; rfl
  | host turns m rest hm hq hmove => exact hmove.cfg_eq
  | idle hm ht => rw [ht]

/-- Only the two reset events end a pending command on a move of the host. -/
theorem Moved.busy_eq {s t : State} {m : HostMove} (h : Moved s m t) (hb : s.status.busy = true) :
    (t.status.busy = true ∧ t.turns = s.turns) ∨ (t.status.busy = false ∧ (m = .reset ∨ m = .powerOn)) := by
  cases h with
  | answered | stored => exact .inl ⟨hb, rfl⟩
  | wrote off width v =>
    obtain hw | ⟨hidle, -⟩ := s.regWrite_cases off v
    · rw [hw]
      exact .inl ⟨hb, rfl⟩
    · cases hb.symm.trans hidle
  | reset => exact .inr ⟨rfl, .inl rfl⟩
  | powerOn => exact .inr ⟨rfl, .inr rfl⟩

/-- Settles O59: a host move that is no reset event leaves the command pending. -/
theorem onlyCompletionOrResetEndsACommand : Obligations.OnlyCompletionOrResetEndsACommand := by
  intro s t hb h hidle
  cases step_stepped h with
  | command turns i hm | illegal turns hm => exact .inl hm
  | idle hm ht => cases hb.symm.trans (ht ▸ hidle)
  | host turns m rest hm hq hmove =>
    obtain ⟨hbusy, -⟩ | ⟨-, rfl | rfl⟩ := hmove.busy_eq hb
    · cases hbusy.symm.trans hidle
    · exact .inr (.inl (by rw [hq]; rfl))
    · exact .inr (.inr (by rw [hq]; rfl))

/-! ## A pending command ends -/

/-- Within `n` steps the run stops, or reaches a state with nothing pending. -/
def endsWithin (s : State) (n : Nat) : Prop :=
  ∃ k, k ≤ n ∧
    ((∃ t, Sys2Proof.core.run k s = .next t ∧ t.status.busy = false) ∨ (∃ r, Sys2Proof.core.run k s = .fault r) ∨
      ∃ r, Sys2Proof.core.run k s = .refused r)

/-- A step that answers no state ends the run; one that answers a state leaves what is left of the bound. -/
theorem endsWithin_succ {s : State} {n : Nat} (h : ∀ t, step s = .next t → t.status.busy = false ∨ endsWithin t n) :
    endsWithin s (n + 1) := by
  cases hs : step s with
  | fault r => exact ⟨1, by omega, .inr (.inl ⟨r, by simp only [Host.Core.run, Sys2Proof.core, hs]⟩)⟩
  | refused r => exact ⟨1, by omega, .inr (.inr ⟨r, by simp only [Host.Core.run, Sys2Proof.core, hs]⟩)⟩
  | next t =>
    have hrun (k : Nat) : Sys2Proof.core.run (k + 1) s = Sys2Proof.core.run k t := by
      simp only [Host.Core.run, Sys2Proof.core, hs]
    obtain hidle | ⟨k, hk, hend⟩ := h t hs
    · exact ⟨1, by omega, .inl ⟨t, hrun 0, hidle⟩⟩
    · exact ⟨k + 1, by omega, (hrun k).symm ▸ hend⟩

/-- The engine's step ends the command. -/
theorem idle_of_engine {s t : State} (hm : s.mover = some .engine) (h : step s = .next t) : t.status.busy = false := by
  cases step_stepped h with
  | command turns i _ hexec => exact (exec_ends hexec).completed.1
  | illegal turns _ ht => rw [ht]; rfl
  | host turns m rest hhost => cases hm.symm.trans hhost
  | idle hnone => cases hm.symm.trans hnone

/-- Settles O60, by induction on the schedule: each step of the host uses up one of its entries. -/
theorem pendingCommandEnds : Obligations.PendingCommandEnds := by
  intro s
  change s.status.busy = true → endsWithin s (s.turns.length + 1)
  induction hturns : s.turns generalizing s with
  | nil =>
    intro hb
    have hm : s.mover = some .engine := by rw [State.mover_of_busy hb, hturns]; simp
    exact endsWithin_succ fun t ht => .inl (idle_of_engine hm ht)
  | cons agent turns ih =>
    intro hb
    refine endsWithin_succ fun t ht => ?_
    cases hm : s.mover with
    | none => rw [State.mover_of_busy hb] at hm; cases hm
    | some who =>
      cases who with
      | engine => exact .inl (idle_of_engine hm ht)
      | host =>
        have hq := State.queue_of_host hm
        obtain ⟨m, rest, hcons⟩ := List.exists_cons_of_ne_nil hq
        rw [step_of_host hm, State.afterTurn_of_contended hb hq] at ht
        have hstep := State.hostStep_cons (s := { s with turns := s.turns.tail }) hcons
        obtain ⟨hbusy, hleft⟩ | ⟨hidle, -⟩ := (State.hostMove_moved (hstep.symm.trans ht)).busy_eq hb
        · exact .inr (ih t (by rw [hleft, hturns]; rfl) hbusy)
        · exact .inl hidle

end Sys2Proof.Machine
end

/-! PROOFS of the family 'other': the invariant of `inv` (10_state.md sections 3 to 9). -/
section
namespace Sys2Proof.Machine

open Sys2Proof.Safety

/-- `inv` as propositions. -/
structure Inv (s : State) : Prop where
  path : s.cfg.hasPath s.sel = true
  mem : s.mem.wf = true ∧ ∀ c ∈ s.mem, c.1 < s.cfg.memBytes
  maxFrame : s.maxFrame ≠ 0#64
  error : s.status.result = .error → s.status.err ∈ raisedCodes
  clear : s.status.result ≠ .error →
    s.status.err = 0#8 ∧ s.status.closeHint = 0#16 ∧ s.errInfo0 = 0#64 ∧ s.errInfo1 = 0#64
  received : receivedFrameAgrees s = true
  close : closeAgrees s = true
  vkey : s.vkey = none

theorem errorFieldsAgree_iff (s : State) :
    errorFieldsAgree s = true ↔
      (s.status.result = .error → s.status.err ∈ raisedCodes) ∧
        (s.status.result ≠ .error →
          s.status.err = 0#8 ∧ s.status.closeHint = 0#16 ∧ s.errInfo0 = 0#64 ∧ s.errInfo1 = 0#64) := by
  by_cases h : s.status.result = .error <;> simp [errorFieldsAgree, h, and_assoc]

theorem inv_iff (s : State) : inv s = true ↔ Inv s := by
  simp only [inv, Bool.and_eq_true, errorFieldsAgree_iff, pathPresent, memoryInWindow, maxFrameNonzero, noVectorKey,
    List.all_eq_true, decide_eq_true_eq, Option.isNone_iff_eq_none, and_assoc]
  constructor
  · rintro ⟨hpath, hwf, hwin, hmf, herr, hclear, hrx, hclose, hkey⟩
    exact ⟨hpath, ⟨hwf, hwin⟩, hmf, herr, hclear, hrx, hclose, hkey⟩
  · rintro ⟨hpath, ⟨hwf, hwin⟩, hmf, herr, hclear, hrx, hclose, hkey⟩
    exact ⟨hpath, hwf, hwin, hmf, herr, hclear, hrx, hclose, hkey⟩

/-! ## Reset -/

theorem hasPath_widestPath (p : Params) : p.hasPath p.widestPath = true := by
  unfold Params.hasPath Params.widestPath
  cases p.hasV512 <;> cases p.hasV256 <;> cases p.hasV128 <;> simp

theorem resetMaxFrame_ne_zero (p : Params) : p.resetMaxFrame ≠ 0#64 := by
  have := p.resetMaxFrameLess1.isLt
  simp only [Params.resetMaxFrame, ne_eq, BitVec.toNat_eq, BitVec.toNat_ofNat]
  omega

/-- The reset values keep the invariant, over any memory that does. -/
theorem Inv.powerOn (p : Params) {m : Memory} (hm : m.wf = true ∧ ∀ c ∈ m, c.1 < p.memBytes) : Inv (State.powerOn p m) where
  path := hasPath_widestPath p
  mem := hm
  maxFrame := resetMaxFrame_ne_zero p
  error := nofun
  clear _ := ⟨rfl, rfl, rfl, rfl⟩
  received := rfl
  close := rfl
  vkey := rfl

/-- Settles O49. -/
theorem invariantHoldsAtReset : Obligations.InvariantHoldsAtReset := by
  have hempty (p : Params) : inv (State.powerOn p []) = true := (inv_iff _).2 (Inv.powerOn p ⟨rfl, nofun⟩)
  exact ⟨hempty Config.params, hempty⟩

/-! ## The received frame -/

theorem FrameHeader.hdrLen_mem (h : FrameHeader) : h.hdrLen ∈ [2, 4, 6, 8, 10, 14] := by
  unfold FrameHeader.hdrLen headerLen extBytes
  split_ifs <;> decide

/-- The results of a PARSE ending OK describe the frame whose header it accepted. -/
theorem receivedFrameAgrees_of_parseHeader {s : State} {c : Ctrl} {mf : Word} {buf : List Byte} {h : FrameHeader}
    (hp : parseHeader c mf buf = .ok h) (m : Memory) (addr : Word) (close : RxClose) :
    receivedFrameAgrees ({ s with mem := m }.parseDone h addr close) = true := by
  have hlen := FrameHeader.len_lt hp
  obtain ⟨b1, rest, -, hb1, -, -, -, -, -, -, -, hkey⟩ := parseHeader_b0 hp
  have hhdr := h.hdrLen_mem
  have hsmall : h.hdrLen < 16 := by
    have : ∀ n ∈ [2, 4, 6, 8, 10, 14], n < 16 := by decide
    exact this _ hhdr
  have hwidth : (BitVec.ofNat 4 h.hdrLen).toNat = h.hdrLen := by
    rw [BitVec.toNat_ofNat, Nat.mod_eq_of_lt hsmall]
  have hconsumed : BitVec.ofNat 64 (h.hdrLen + h.len) =
      BitVec.ofNat 64 h.len + (BitVec.ofNat 4 h.hdrLen).setWidth 64 := by
    apply BitVec.eq_of_toNat_eq
    simp only [BitVec.toNat_add, BitVec.toNat_setWidth, hwidth, BitVec.toNat_ofNat]
    omega
  have hunmasked : maskBit h.b1 = true ∨ h.key = 0#32 := by
    rw [hkey, hb1]
    cases maskBit b1
    · exact .inr rfl
    · exact .inl rfl
  have hlow : (BitVec.ofNat 64 h.len).toNat < 2 ^ 63 := by
    rw [BitVec.toNat_ofNat]
    omega
  simp only [receivedFrameAgrees, Bool.and_eq_true, Bool.or_eq_true, decide_eq_true_eq, List.contains_iff_mem]
  refine ⟨⟨⟨hlow, hconsumed⟩, ?_⟩, hunmasked⟩
  change (BitVec.ofNat 4 h.hdrLen).toNat ∈ _
  rw [hwidth]
  exact List.mem_cons_of_mem _ hhdr

/-! ## The decoded Close payload -/

section
variable (c0 c1 : Byte) {reason : List Byte}

theorem closeDecode_of_accept (h : runUtf8 .accept reason = .accept) :
    closeDecode (c0 :: c1 :: reason) =
      .ok
        { code := c0 ++ c1
          present := true
          valid := sendableCloseCode (beNat [c0, c1])
          reasonLen := BitVec.ofNat 7 reason.length } := by
  have hrun : runUtf8 .accept reason ≠ .reject := by
    rw [h]
    nofun
  rw [closeDecode, feed_ends _ _ _ hrun, h]
  rfl

theorem closeDecode_of_cut (ha : runUtf8 .accept reason ≠ .accept) (hr : runUtf8 .accept reason ≠ .reject) :
    closeDecode (c0 :: c1 :: reason) =
      .error (invalidUtf8 (BitVec.ofNat 64 (reason.length + 2)) (runUtf8 .accept reason)) := by
  rw [closeDecode, feed_ends _ _ _ hr]
  exact if_neg ha

theorem closeDecode_of_rejects {before after : List Byte} {b : Byte} (h : runUtf8 .accept before ≠ .reject)
    (hb : delta (runUtf8 .accept before) b = .reject) :
    closeDecode (c0 :: c1 :: (before ++ b :: after)) =
      .error (invalidUtf8 (BitVec.ofNat 64 (2 + before.length)) (runUtf8 .accept before)) := by
  rw [closeDecode, feed_rejects _ _ _ _ _ h hb]

end

theorem toNat_append_byte (c0 c1 : Byte) : (c0 ++ c1 : BitVec 16).toNat = c0.toNat * 256 + c1.toNat := by
  rw [BitVec.toNat_append, ← Nat.shiftLeft_add_eq_or_of_lt c1.isLt, Nat.shiftLeft_eq]

theorem beNat_two (c0 c1 : Byte) : beNat [c0, c1] = c0.toNat * 256 + c1.toNat := by
  simp [beNat]

/-- A Close payload is decoded when it is empty, or a code with a whole valid reason (R168). -/
theorem closeDecode_eq_ok {p : List Byte} {c : RxClose} (h : closeDecode p = .ok c) :
    (p = [] ∧ c = { code := 1005#16, present := false, valid := false, reasonLen := 0#7 }) ∨
      ∃ c0 c1 reason, p = c0 :: c1 :: reason ∧
        c =
          { code := c0 ++ c1
            present := true
            valid := sendableCloseCode (beNat [c0, c1])
            reasonLen := BitVec.ofNat 7 reason.length } := by
  match p with
  | [] => exact .inl ⟨rfl, (Except.ok.inj h).symm⟩
  | [_] => cases h
  | c0 :: c1 :: reason =>
    by_cases ha : runUtf8 .accept reason = .accept
    · rw [closeDecode_of_accept c0 c1 ha] at h
      exact .inr ⟨c0, c1, reason, rfl, (Except.ok.inj h).symm⟩
    · by_cases hr : runUtf8 .accept reason = .reject
      · obtain ⟨before, b, after, rfl, hbefore, hb⟩ := runUtf8_first_reject .accept reason nofun hr
        rw [closeDecode_of_rejects c0 c1 hbefore hb] at h
        cases h
      · rw [closeDecode_of_cut c0 c1 ha hr] at h
        cases h

theorem closeDecode_agrees {p : List Byte} {c : RxClose} (h : closeDecode p = .ok c) :
    c.valid = (c.present && sendableCloseCode c.code.toNat) ∧ c.reasonLen.toNat ≤ p.length - 2 := by
  obtain ⟨rfl, rfl⟩ | ⟨c0, c1, reason, rfl, rfl⟩ := closeDecode_eq_ok h
  · exact ⟨rfl, Nat.le_refl 0⟩
  · refine ⟨?_, Nat.mod_le _ _⟩
    simp only [toNat_append_byte, beNat_two, Bool.true_and]

/-- A control frame holds at most 125 bytes. -/
theorem len_le_of_checkLength {mf : Word} {op : BitVec 4} {len : Nat} (h : checkLength mf op len = none)
    (hop : controlFrameOpcode op = true) : len ≤ 125 := by
  unfold checkLength at h
  split_ifs at h with hbig
  exact Nat.not_lt.1 fun hlt => hbig ⟨hop, hlt⟩

/-- `RX_CLOSE` of a frame the header stage accepts agrees with itself. -/
theorem closeAgrees_of_parseHeader {t : State} {c : Ctrl} {mf : Word} {buf p : List Byte} {h : FrameHeader}
    (hp : parseHeader c mf buf = .ok h) (hlen : p.length = h.len)
    (hc : rxCloseOf (frameOpcode h.b0) p = .ok t.rxClose) : closeAgrees t = true := by
  simp only [closeAgrees, Bool.and_eq_true, beq_iff_eq, decide_eq_true_eq]
  unfold rxCloseOf at hc
  split_ifs at hc with hop
  · obtain ⟨b1, rest, -, -, -, -, -, -, -, -, hmax, -⟩ := parseHeader_b0 hp
    have := len_le_of_checkLength hmax (by rw [hop]; rfl)
    obtain ⟨hvalid, hreason⟩ := closeDecode_agrees hc
    exact ⟨hvalid, by omega⟩
  · rw [← Except.ok.inj hc]
    exact ⟨rfl, Nat.zero_le _⟩

/-! ## Every step keeps the invariant -/

theorem code_mem_raisedCodes {k : ErrorKind} (h : k ∈ parseKinds) : k.code ∈ raisedCodes := by
  revert k
  decide

theorem parseKinds_of_serKinds {k : ErrorKind} (h : k ∈ serKinds) : k ∈ parseKinds :=
  List.mem_cons_of_mem _ (List.mem_cons_of_mem _ (List.mem_cons_of_mem _ h))

theorem Ends.err_raised {i : Instr} {s t : State} (h : Ends s i t) (hr : t.status.result = .error) :
    t.status.err ∈ raisedCodes := by
  cases h with
  | serCheck m e hk => exact code_mem_raisedCodes (parseKinds_of_serKinds hk)
  | parseError i hi e hk => exact code_mem_raisedCodes hk
  | maskOut | serOut | feedOut => exact code_mem_raisedCodes (k := .boundsFault) (by decide)
  | feedSticky | feedRejects | finError => exact code_mem_raisedCodes (k := .invalidUtf8) (by decide)
  | _ => cases hr

/-- A command writes inside the window, and keeps the canonical form. -/
theorem Inv.exec_mem {i : Instr} {s t : State} (h : Inv s) (he : exec i s = .next t) :
    t.mem.wf = true ∧ ∀ c ∈ t.mem, c.1 < s.cfg.memBytes := by
  obtain ⟨a, bs, hmem, hin⟩ := Machine.exec_mem he
  obtain ⟨hwf, hwin⟩ := h.mem
  rw [hmem]
  refine ⟨Memory.wf_writeBytes a bs hwf, fun c hc => ?_⟩
  obtain hold | hnew := Memory.mem_writeBytes hc
  · exact hwin c hold
  · obtain rfl | ⟨-, -, hlast⟩ := hin
    · exact absurd hnew (by simp)
    · omega

theorem Inv.exec {i : Instr} {s t : State} (h : Inv s) (he : exec i s = .next t) : Inv t := by
  have hends := exec_ends he
  obtain ⟨hcfg, -, hsel, hmf, -⟩ := hends.setup_eq
  obtain ⟨-, -, hvkey, hclear, -⟩ := hends.completed
  exact
    { path := by rw [hcfg, hsel]; exact h.path
      mem := by rw [hcfg]; exact h.exec_mem he
      maxFrame := by rw [hmf]; exact h.maxFrame
      error := hends.err_raised
      clear := hclear
      received := by
        cases hends with
        | parseDone i hi m buf p hd addr c hp hlen hc => exact receivedFrameAgrees_of_parseHeader hp m addr c
        | _ => exact h.received
      close := by
        cases hends with
        | parseDone i hi m buf p hd addr c hp hlen hc =>
          exact closeAgrees_of_parseHeader (t := { s with mem := m }.parseDone hd addr c) hp hlen hc
        | _ => exact h.close
      vkey := hvkey }

theorem Inv.illegalCommand {s : State} (h : Inv s) : Inv s.illegalCommand where
  path := h.path
  mem := h.mem
  maxFrame := h.maxFrame
  error _ := (by decide : (0x40 : Byte) ∈ raisedCodes)
  clear hr := absurd rfl hr
  received := h.received
  close := h.close
  vkey := rfl

theorem Inv.writeReg {s : State} (h : Inv s) (r : Reg) (v : Word) : Inv (s.writeReg r v) := by
  cases r with
  | dispatch =>
    unfold State.writeReg
    dsimp only
    split
    · next hp => exact { h with path := hp }
    · exact h
  | maxFrame =>
    unfold State.writeReg
    dsimp only
    split
    · exact h
    · next hv => exact { h with maxFrame := hv }
  | _ => exact { h with }

theorem Inv.moved {s t : State} {m : HostMove} (h : Inv s) (hm : Moved s m t) : Inv t := by
  cases hm with
  | answered => exact { h with }
  | wrote off width v =>
    obtain hw | ⟨-, r, hw⟩ := s.regWrite_cases off v <;> rw [hw]
    · exact h
    · exact h.writeReg r v
  | stored a b ha =>
    obtain ⟨hwf, hwin⟩ := h.mem
    have hmem : (s.mem.write a b).wf = true ∧ ∀ c ∈ s.mem.write a b, c.1 < s.cfg.memBytes := by
      refine ⟨Memory.wf_write a b hwf, fun c hc => ?_⟩
      obtain hc | rfl := Memory.mem_write hc
      · exact hwin c hc
      · exact ha
    exact { h with mem := hmem }
  | reset =>
    have h0 := Inv.powerOn s.cfg (s.wf_memAfterReset h.mem)
    exact { h0 with }
  | powerOn =>
    have hfill := Memory.wf_fillFree s.draws 0 s.cfg.memBytes s.cfg.memBytes (m := []) ⟨rfl, nofun⟩ (.inr (by omega))
    have h0 := Inv.powerOn s.cfg hfill
    exact { h0 with }

/-- The invariant speaks of neither the schedule nor the host's side. -/
theorem Inv.port {s : State} (h : Inv s) (turns : List Agent) (port : HostPort) :
    Inv { s with turns := turns, port := port } :=
  { h with }

/-- Settles O50, by what a step can do. -/
theorem stepKeepsInvariant : Obligations.StepKeepsInvariant := by
  intro s t hinv h
  rw [inv_iff] at hinv ⊢
  cases step_stepped h with
  | command turns i hm he => exact (hinv.port turns s.port).exec he
  | illegal turns hm ht => rw [ht]; exact (hinv.port turns s.port).illegalCommand
  | host turns m rest hm hq hmove => exact (hinv.port turns _).moved hmove
  | idle hm ht => rwa [ht]

end Sys2Proof.Machine
end

/-! PROOFS of the family 'other': PARSE of accepted frames, its progress and its determinism (42_frame_parse.md). -/
section
namespace Sys2Proof.Machine

open Sys2Proof.Safety

/-! ## The ends on an accepted frame -/

/-- `i` decodes the buffered frame with byte 0 `b0` and flag Z: a PARSE of that frame, or a frame instruction of its own
byte 0 with the Z of the pending command (log 12). -/
def decodesFrame (i : Instr) (s : State) (z : Bool) (b0 : Byte) : Prop :=
  (i = .parse z ∧ b0 = byte0 s) ∨ (z = s.pendingZ ∧ encode i = .frameByte0 b0)

theorem decodesFrame_parse (s : State) (z : Bool) : decodesFrame (.parse z) s z (byte0 s) := .inl ⟨rfl, rfl⟩

theorem rxCloseOf_of_ne {op : BitVec 4} (h : op ≠ 8#4) (p : List Byte) : rxCloseOf op p = .ok noClose := if_neg h

theorem rxCloseOf_close {op : BitVec 4} (h : op = 8#4) (p : List Byte) : rxCloseOf op p = closeDecode p := if_pos h

@[simp] theorem plainPayload_length (s : State) : (plainPayload s).length = frameLen s := by
  simp [plainPayload]

theorem sendableCloseCode_iff (code : Nat) : sendableCloseCode code = true ↔ sendable code := by
  simp [sendableCloseCode, sendable]
  omega

section
variable {i : Instr} {s : State} {z : Bool} {b0 : Byte} (hi : decodesFrame i s z b0) (ha : frameAccepted s b0)
include hi ha

theorem exec_of_frameAccepted :
    exec i s =
      .next (s.parseBuffer z (b0 :: byte1 s :: s.mem.readBytes (s.aSrc.toNat + 2) (s.aLen.toNat - 2))) := by
  have h2 := two_le_of_frameAccepted ha
  obtain ⟨rfl, rfl⟩ | ⟨rfl, hb⟩ := hi
  · rw [← slice_two s h2]
    rfl
  · rw [exec_of_frameByte0 hb, State.codecFrame, withByte0_slice s b0 h2]

theorem exec_of_delivered {c : RxClose} (hc : rxCloseOf (frameOpcode b0) (plainPayload s) = .ok c)
    (hplace : placeAccepted s z) : exec i s = .next (parsedState s z b0 c) := by
  have hin : ¬ (z = false ∧ s.inRange s.aDst.toNat (frameLen s) = false) :=
    fun ⟨hz, hd⟩ => Bool.false_ne_true (hd.symm.trans (hplace hz))
  rw [exec_of_frameAccepted hi ha, State.parseBuffer_of_frameAccepted s b0 z ha, hc]
  simp only [if_neg hin]

theorem exec_of_closeError {e : CmdError} (hc : rxCloseOf (frameOpcode b0) (plainPayload s) = .error e) :
    exec i s = .next (s.parseRaise (.parsedFrame (frameOpcode b0)) e) := by
  rw [exec_of_frameAccepted hi ha, State.parseBuffer_of_frameAccepted s b0 z ha, hc]

theorem exec_of_noPlace {c : RxClose} (hc : rxCloseOf (frameOpcode b0) (plainPayload s) = .ok c) (hz : z = false)
    (hd : s.inRange s.aDst.toNat (frameLen s) = false) :
    exec i s =
      .next (s.parseRaise (.parsedFrame (frameOpcode b0)) (boundsFault s.aDst.toNat (frameLen s))) := by
  rw [exec_of_frameAccepted hi ha, State.parseBuffer_of_frameAccepted s b0 z ha, hc]
  simp only [if_pos (And.intro hz hd)]

end

/-- Settles O28: `RX_CLOSE` is 0 on every frame but Close. -/
theorem acceptedFrameIsDelivered : Obligations.AcceptedFrameIsDelivered := by
  refine ⟨fun s z ha hop hplace => ?_, fun s f a b c hplace => ?_⟩
  · exact exec_of_delivered (decodesFrame_parse s z) ha (rxCloseOf_of_ne hop _) hplace
  · have hframe {i : Instr} {op : BitVec 4} (hop : op ≠ 8#4) (hb : encode i = .frameByte0 (frameByte0 f a b c op))
        (ha : frameAccepted s (frameByte0 f a b c op)) :
        exec i s = .next (parsedState s s.pendingZ (frameByte0 f a b c op) noClose) :=
      exec_of_delivered (.inr ⟨rfl, hb⟩) ha
        (rxCloseOf_of_ne (by rwa [frameOpcode_frameByte0]) _) hplace
    exact ⟨hframe (by decide) rfl, hframe (by decide) rfl, hframe (by decide) rfl, hframe (by decide) rfl,
      hframe (by decide) rfl⟩

/-- Settles O29, by the Close decode of each payload. -/
theorem closeFrameIsDecoded : Obligations.CloseFrameIsDecoded := by
  intro s z b0 i hi (hop : frameOpcode b0 = 8#4) ha hplace
  have hi : decodesFrame i s z b0 := by
    obtain hparse | ⟨hz, f, a, b, c, rfl, rfl⟩ := hi
    · exact .inl hparse
    · exact .inr ⟨hz, rfl⟩
  refine ⟨fun h0 => ?_, fun c0 c1 reason hp hvalid => ?_⟩
  · have hnil : plainPayload s = [] := List.eq_nil_of_length_eq_zero ((plainPayload_length s).trans h0)
    exact exec_of_delivered hi ha (by rw [rxCloseOf_close hop, hnil]; rfl) hplace
  · refine ⟨sendableCloseCode (beNat [c0, c1]), by rw [sendableCloseCode_iff, beNat_two], ?_⟩
    have hlen : frameLen s - 2 = reason.length := by
      rw [← plainPayload_length, hp]
      rfl
    rw [hlen]
    refine exec_of_delivered hi ha ?_ hplace
    rw [rxCloseOf_close hop, hp, closeDecode_of_accept c0 c1 ((validUtf8_iff reason).1 hvalid)]

/-- Settles O30, by the Close decode of each payload. -/
theorem closeFrameErrors : Obligations.CloseFrameErrors := by
  intro s z hop ha
  have herror {e : CmdError} (hc : closeDecode (plainPayload s) = .error e) :
      exec (.parse z) s = .next (endParseError s e.kind.code 0#16 e.info0 e.info1) := by
    rw [exec_of_closeError (decodesFrame_parse s z) ha ((rxCloseOf_close hop _).trans hc),
      show frameOpcode (byte0 s) = 8#4 from hop]
    rfl
  refine ⟨fun h1 => ?_, fun c0 c1 b before after hp hbefore hb => ?_, fun c0 c1 reason hp hna hnr => ?_⟩
  · obtain ⟨x, hx⟩ := List.length_eq_one_iff.1 ((plainPayload_length s).trans h1)
    exact herror (by rw [hx]; rfl)
  · exact herror (by rw [hp, closeDecode_of_rejects c0 c1 hbefore hb])
  · have hlen : frameLen s = reason.length + 2 := by
      rw [← plainPayload_length, hp]
      rfl
    rw [hlen]
    exact herror (by rw [hp, closeDecode_of_cut c0 c1 hna hnr])

theorem closeHint_parsedFrame_boundsFault (op : BitVec 4) : closeHint (.parsedFrame op) .boundsFault = 0#16 :=
  ite_self 0#16

/-- Settles O31: the Close decode comes first and passes. -/
theorem parseDestinationOutOfRange : Obligations.ParseDestinationOutOfRange := by
  intro s ha hd hclose
  have hc : ∃ c, rxCloseOf (frameOpcode (byte0 s)) (plainPayload s) = .ok c := by
    by_cases hop : frameOpcode (byte0 s) = 8#4
    · obtain ⟨c0, c1, reason, hp, hvalid⟩ := hclose hop
      exact ⟨_, by rw [rxCloseOf_close hop, hp, closeDecode_of_accept c0 c1 ((validUtf8_iff reason).1 hvalid)]⟩
    · exact ⟨_, rxCloseOf_of_ne hop _⟩
  obtain ⟨c, hc⟩ := hc
  rw [exec_of_noPlace (decodesFrame_parse s false) ha hc rfl hd, State.parseRaise, State.raise, boundsFault]
  simp only [closeHint_parsedFrame_boundsFault, BitVec.ofNat_toNat, BitVec.setWidth_eq]
  rfl

/-! ## Progress after NEED_MORE -/

theorem extBytes_le (l7 : BitVec 7) (mk : Bool) : 2 + extBytes l7 ≤ headerLen l7 mk ∧ headerLen l7 mk ≤ 14 := by
  unfold headerLen extBytes
  split_ifs <;> omega

theorem len_le_maxFrame_of_checkLength {mf : Word} {op : BitVec 4} {len : Nat} (h : checkLength mf op len = none) :
    len ≤ mf.toNat := by
  unfold checkLength at h
  split_ifs at h with _ hbig
  exact Nat.not_lt.1 hbig

/-- Each NEED_MORE asks for at least one byte, and for none beyond the largest frame the limit lets through (R165). -/
theorem parseHeader_needMore {c : Ctrl} {mf : Word} {buf : List Byte} {n : Nat}
    (hp : parseHeader c mf buf = .error (.needMore n)) :
    0 < n ∧ n < 2 ^ 64 ∧ buf.length + n ≤ 14 + mf.toNat := by
  unfold parseHeader at hp
  split at hp
  · cases hp
    exact ⟨by decide, by decide, by rw [List.length_nil]; omega⟩
  · cases hp
    exact ⟨by decide, by decide, by rw [List.length_singleton]; omega⟩
  · next b0 b1 rest =>
    obtain ⟨hlow, hhigh⟩ := extBytes_le (len7 b1) (maskBit b1)
    rw [List.length_cons, List.length_cons]
    split at hp
    · cases hp
    · split at hp
      · cases hp
        omega
      · next hext =>
        split at hp
        · cases hp
        · next hchecks =>
          obtain ⟨hform, hmax⟩ := Option.or_eq_none_iff.1 hchecks
          have hlen := wireLength_lt (Nat.not_lt.1 hext) hform
          have hlimit := len_le_maxFrame_of_checkLength hmax
          split_ifs at hp <;> cases hp <;> omega

/-- A PARSE that ends NEED_MORE reports the count its header stage asks for. -/
theorem rxNeed_of_needMore {s t : State} {z : Bool} (h : exec (.parse z) s = .next t)
    (hr : t.status.result = .needMore) :
    0 < t.rxNeed.toNat ∧ s.aLen.toNat + t.rxNeed.toNat ≤ 14 + s.maxFrame.toNat := by
  cases h
  obtain ⟨n, -, hp, he⟩ | ⟨e, he, -⟩ | ⟨hd, c, m, addr, -, -, -, he, -, -⟩ := s.parseBuffer_cases z s.slice
  · obtain ⟨hpos, hlt, hle⟩ := parseHeader_needMore hp
    rw [State.slice_length] at hle
    have hn : (s.parseBuffer z s.slice).rxNeed.toNat = n := by
      rw [he]
      exact Nat.mod_eq_of_lt hlt
    rw [hn]
    exact ⟨hpos, hle⟩
  · rw [he] at hr
    cases hr
  · rw [he] at hr
    cases hr

/-- Settles O33: what the second PARSE asks for comes on top of what it was given. -/
theorem needMoreMakesProgress : Obligations.NeedMoreMakesProgress := by
  intro s t u z m avail ht hrt
  obtain ⟨-, hle⟩ := rxNeed_of_needMore ht hrt
  refine ⟨hle, fun _ havail hu hru => ?_⟩
  obtain ⟨hpos, -⟩ := rxNeed_of_needMore hu hru
  omega

/-! ## Determinism -/

/-- PARSE of two buffers ends the same when their header stages agree and so do the payloads the header gives. -/
theorem State.parseBuffer_congr {s : State} {z : Bool} {buf buf' : List Byte}
    (hp : parseHeader s.ctrl s.maxFrame buf' = parseHeader s.ctrl s.maxFrame buf)
    (hsrc : parseSource buf' = parseSource buf)
    (hpay : ∀ h, parseHeader s.ctrl s.maxFrame buf = .ok h →
      (buf'.drop h.hdrLen).take h.len = (buf.drop h.hdrLen).take h.len) :
    s.parseBuffer z buf' = s.parseBuffer z buf := by
  unfold State.parseBuffer
  rw [hp, hsrc]
  cases h : parseHeader s.ctrl s.maxFrame buf with
  | error stop => cases stop <;> rfl
  | ok hd => simp only [State.parsePayload, hpay hd h]

section
variable {s : State} {m : Memory}
  (hagree : ∀ x, x < hdrLen s + frameLen s → m.read (s.aSrc.toNat + x) = s.mem.read (s.aSrc.toNat + x))
include hagree

theorem byte0_setMem : byte0 (s.setMem m) = byte0 s :=
  hagree 0 (by unfold hdrLen; omega)

theorem byte1_setMem : byte1 (s.setMem m) = byte1 s :=
  hagree 1 (by unfold hdrLen; omega)

theorem ext_setMem : ext (s.setMem m) = ext s := by
  unfold ext
  rw [byte1_setMem hagree]

theorem masked_setMem : masked (s.setMem m) = masked s := by
  unfold masked
  rw [byte1_setMem hagree]

theorem hdrLen_setMem : hdrLen (s.setMem m) = hdrLen s := by
  unfold hdrLen
  rw [ext_setMem hagree, masked_setMem hagree]

theorem frameLen_setMem : frameLen (s.setMem m) = frameLen s := by
  unfold frameLen
  rw [ext_setMem hagree, byte1_setMem hagree]
  congr 2
  refine List.map_congr_left fun j hj => ?_
  have hj := List.mem_range.1 hj
  rw [State.setMem_aSrc, State.setMem_mem, Nat.add_assoc, hagree (2 + j) (by unfold hdrLen; omega)]

theorem frameKey_setMem : frameKey (s.setMem m) = frameKey s := by
  unfold frameKey
  rw [ext_setMem hagree, masked_setMem hagree]
  split_ifs with hm
  · have hkey {k : Nat} (hk : k < 6) : m.read (s.aSrc.toNat + k + ext s) = s.mem.read (s.aSrc.toNat + k + ext s) := by
      rw [Nat.add_assoc]
      exact hagree _ (by rw [hdrLen, if_pos hm]; omega)
    rw [State.setMem_mem, State.setMem_aSrc, hkey (k := 2) (by omega), hkey (k := 3) (by omega),
      hkey (k := 4) (by omega), hkey (k := 5) (by omega)]
  · rfl

theorem parseHeader_slice_setMem (h2 : 2 ≤ s.aLen.toNat) :
    parseHeader s.ctrl s.maxFrame (s.setMem m).slice = parseHeader s.ctrl s.maxFrame s.slice := by
  rw [slice_two (s.setMem m) h2, slice_two s h2, parseHeader_eq s _ h2]
  refine (parseHeader_eq (s.setMem m) _ h2).trans ?_
  simp only [byte0_setMem hagree, byte1_setMem hagree, ext_setMem hagree, hdrLen_setMem hagree,
    frameLen_setMem hagree, frameKey_setMem hagree]
  rfl

end

theorem State.slice_drop_take (s : State) {hl len : Nat} (h : hl + len ≤ s.aLen.toNat) :
    (s.slice.drop hl).take len = s.mem.readBytes (s.aSrc.toNat + hl) len := by
  rw [State.slice, Memory.readBytes_drop _ (by omega), Memory.readBytes_take _ (by omega)]

/-- The header stage on the slice gives the frame's own header and payload length. -/
theorem lengths_of_parseHeader {s : State} {h : FrameHeader} (hp : parseHeader s.ctrl s.maxFrame s.slice = .ok h)
    (h2 : 2 ≤ s.aLen.toNat) : h.hdrLen = hdrLen s ∧ h.len = frameLen s := by
  obtain ⟨b1, rest, hcons, hb1, hlen, -, hext, -⟩ := parseHeader_b0 hp
  rw [slice_two s h2] at hcons
  obtain ⟨-, hcons⟩ := List.cons.inj hcons
  obtain ⟨rfl, rfl⟩ := List.cons.inj hcons
  refine ⟨by rw [FrameHeader.hdrLen, hb1, headerLen_byte1], ?_⟩
  rw [extBytes_byte1, Memory.readBytes_length] at hext
  rw [hlen, wireLength_eq_frameLen s hext]

/-- PARSE cannot tell the buffered bytes of one memory from those of another that agrees on the frame, whatever memory it
runs over. -/
theorem State.parseBuffer_slice_setMem {s : State} {m : Memory} (z : Bool)
    (hagree : ∀ x, x < min s.aLen.toNat (hdrLen s + frameLen s) →
      m.read (s.aSrc.toNat + x) = s.mem.read (s.aSrc.toNat + x)) :
    (s.setMem m).parseBuffer z (s.setMem m).slice = (s.setMem m).parseBuffer z s.slice := by
  by_cases hle : s.aLen.toNat ≤ hdrLen s + frameLen s
  · rw [Nat.min_eq_left hle] at hagree
    have hslice : (s.setMem m).slice = s.slice := by
      refine Memory.readBytes_congr fun x hlo hhi => ?_
      obtain ⟨k, rfl⟩ := Nat.exists_eq_add_of_le hlo
      exact hagree k (by simpa using hhi)
    rw [hslice]
  · rw [Nat.min_eq_right (Nat.le_of_not_le hle)] at hagree
    have h2 : 2 ≤ s.aLen.toNat := by
      unfold hdrLen at hle
      omega
    refine State.parseBuffer_congr (parseHeader_slice_setMem hagree h2) ?_ fun h hp => ?_
    · rw [slice_two s h2, slice_two (s.setMem m) h2, byte0_setMem hagree]
      rfl
    · obtain ⟨hhdr, hlen⟩ := lengths_of_parseHeader hp h2
      have hall : h.hdrLen + h.len ≤ s.aLen.toNat := by omega
      rw [s.slice_drop_take hall, (s.setMem m).slice_drop_take hall]
      refine Memory.readBytes_congr fun x hlo hhi => ?_
      obtain ⟨k, rfl⟩ := Nat.exists_eq_add_of_le hlo
      rw [State.setMem_aSrc, Nat.add_assoc]
      exact hagree _ (by rw [State.setMem_aSrc] at hhi; omega)

/-- Settles O32: over both memories PARSE ends the same and, with Z = 0, writes the same payload at `A_DST`. -/
theorem parseDependsOnlyOnTheFrame : Obligations.ParseDependsOnlyOnTheFrame := by
  intro s z m hagree
  obtain ⟨t, a, bs, hall, hend⟩ := s.parseBuffer_setMem z s.slice
  refine ⟨t.setMem (s.mem.writeBytes a bs), t.setMem (m.writeBytes a bs), congrArg _ (hall s.mem),
    congrArg _ ((State.parseBuffer_slice_setMem z hagree).trans (hall m)), rfl, ?_⟩
  rintro rfl hok
  obtain ⟨hne, -⟩ | ⟨h, -, hp, -, hrx, hplace⟩ := hend
  · exact absurd hok hne
  · obtain ⟨hz, -⟩ | ⟨hbs, ⟨hz, -⟩ | ⟨-, -, rfl⟩⟩ := hplace
    · cases hz
    · cases hz
    · have hlen : t.rxLen.toNat = bs.length := by
        have := FrameHeader.len_lt hp
        rw [hrx, hbs, BitVec.toNat_ofNat]
        omega
      change (m.writeBytes s.aDst.toNat bs).readBytes s.aDst.toNat t.rxLen.toNat =
        (s.mem.writeBytes s.aDst.toNat bs).readBytes s.aDst.toNat t.rxLen.toNat
      rw [hlen, Memory.readBytes_writeBytes, Memory.readBytes_writeBytes]

end Sys2Proof.Machine
end

/-! PROOFS of the family 'other': the frame SER emits, and the round trip through PARSE (42_frame_parse.md,
43_frame_serialize.md). -/
section
namespace Sys2Proof.Machine

open Sys2Proof.Safety

/-! ## SER ending OK -/

theorem txLen_le (m : Bool) (len : Nat) : txLen m len ≤ 14 := by
  unfold txLen
  split_ifs <;> omega

/-- The state SER leaves when it ends OK (R200). -/
def serialized (s : State) (m : Bool) : State :=
  endOk
    { s with
      mem := s.mem.writeBytes s.aDst.toNat (txFrame s m)
      txOutLen := BitVec.ofNat 64 (txLen m s.aLen.toNat + s.aLen.toNat) }

/-- SER ends OK only behind every check. -/
theorem serialized_of_ok {s t : State} {m : Bool} (h : exec (.ser m) s = .next t) (hr : t.status.result = .ok) :
    txHeaderAccepted s.ctrl s.txHdr s.aLen.toNat ∧ txRoleAccepted s.ctrl m ∧
      s.aDst.toNat + (txLen m s.aLen.toNat + s.aLen.toNat) ≤ s.cfg.memBytes ∧ t = serialized s m := by
  cases hc : (checkTxHeader s.ctrl s.txHdr s.aLen.toNat).or (checkTxRole s.ctrl m) with
  | some e =>
    cases (exec_ser_of_check hc).symm.trans h
    cases hr
  | none =>
    obtain ⟨hh, hrole⟩ := Option.or_eq_none_iff.1 hc
    rw [checkTxHeader_eq_none] at hh
    rw [checkTxRole_eq_none] at hrole
    rw [exec_ser_of_accepted hh hrole] at h
    split_ifs at h with hsrc hdst
    · cases h
      exact ⟨hh, hrole, hdst, rfl⟩
    · cases h
      cases hr
    · cases h
      cases hr

/-- The frame's first two bytes. -/
theorem txFrame_cons (s : State) (m : Bool) :
    ∃ rest, txFrame s m = s.txHdr :: (BitVec.ofBool m ++ shortestLen7 s.aLen.toNat) :: rest := by
  rw [← txHeaderBytes_append_payload]
  exact ⟨_, rfl⟩

theorem maskBit_append (m : Bool) (l7 : BitVec 7) : maskBit (BitVec.ofBool m ++ l7) = m := by
  revert m l7
  decide

theorem len7_append (m : Bool) (l7 : BitVec 7) : len7 (BitVec.ofBool m ++ l7) = l7 := by
  revert m l7
  decide

/-- The size of a frame fits the register. -/
theorem toNat_frameSize (m : Bool) {len : Nat} (h : len < 2 ^ 63) :
    (BitVec.ofNat 64 (txLen m len + len)).toNat = txLen m len + len := by
  have := txLen_le m len
  rw [BitVec.toNat_ofNat]
  omega

/-- Settles O39: the role check and the first two bytes of the frame. -/
theorem serializedFrameConformsToRole : Obligations.SerializedFrameConformsToRole := by
  intro s t m h hr
  obtain ⟨⟨-, -, hlen⟩, hrole, -, rfl⟩ := serialized_of_ok h hr
  obtain ⟨rest, hframe⟩ := txFrame_cons s m
  refine ⟨toNat_frameSize m hlen, ?_, ?_⟩
  · change (s.mem.writeBytes s.aDst.toNat (txFrame s m)).read s.aDst.toNat = _
    rw [hframe, Memory.read_writeBytes, if_pos (by simp)]
    simp
  · change maskBit ((s.mem.writeBytes s.aDst.toNat (txFrame s m)).read (s.aDst.toNat + 1)) = _
    rw [hframe, Memory.read_writeBytes, if_pos (by simp)]
    rw [Nat.add_sub_cancel_left]
    exact (maskBit_append m _).trans hrole

/-! ## The header stage on an emitted frame -/

@[simp] theorem beBytes_length (n v : Nat) : (beBytes n v).length = n := by
  induction n with
  | zero => rfl
  | succ n ih => simp [beBytes, ih]

/-- Reading big-endian bytes on top of a number read before. -/
theorem foldl_beBytes (n v acc : Nat) :
    (beBytes n v).foldl (fun acc b => acc * 256 + b.toNat) acc = acc * 256 ^ n + v % 256 ^ n := by
  induction n generalizing acc with
  | zero => simp [beBytes, Nat.mod_one]
  | succ n ih =>
    have hdigit : v % 256 ^ (n + 1) = v % 256 ^ n + 256 ^ n * (v / 256 ^ n % 256) := by rw [Nat.pow_succ, Nat.mod_mul]
    rw [beBytes, List.foldl_cons, ih, BitVec.toNat_ofNat, hdigit, Nat.pow_succ]
    ring

theorem beNat_beBytes {n v : Nat} (h : v < 256 ^ n) : beNat (beBytes n v) = v := by
  rw [beNat, foldl_beBytes, Nat.mod_eq_of_lt h]
  omega

theorem keyOfBytes_keyBytes (k : BitVec 32) : keyOfBytes (keyBytes k) = k := by
  apply BitVec.eq_of_toNat_eq
  have := k.isLt
  simp only [keyOfBytes, keyBytes, keyByte, beNat, List.foldl, BitVec.toNat_ofNat, BitVec.extractLsb'_toNat,
    Nat.shiftRight_eq_div_pow, Nat.reduceMod, Nat.reduceSub, Nat.reduceMul]
  omega

/-- The three length forms of the shortest one, with what each can hold (R91, R201). -/
theorem shortestLen7_cases (len : Nat) :
    (len ≤ 125 ∧ shortestLen7 len = BitVec.ofNat 7 len ∧ extBytes (shortestLen7 len) = 0) ∨
      (126 ≤ len ∧ len ≤ 65535 ∧ extBytes (shortestLen7 len) = 2) ∨
      (65536 ≤ len ∧ extBytes (shortestLen7 len) = 8) := by
  unfold shortestLen7
  split_ifs with h1 h2
  · obtain ⟨h126, h127⟩ := shortest_ne_mark h1
    exact .inl ⟨h1, rfl, by simp [extBytes, h126, h127]⟩
  · exact .inr (.inl ⟨by omega, h2, rfl⟩)
  · exact .inr (.inr ⟨by omega, rfl⟩)

/-- The emitted length bytes read back. -/
theorem wireLength_shortest {len : Nat} (h : len < 2 ^ 63) (rest : List Byte) :
    wireLength (shortestLen7 len) (beBytes (extBytes (shortestLen7 len)) len ++ rest) = len := by
  have htake : (beBytes (extBytes (shortestLen7 len)) len ++ rest).take (extBytes (shortestLen7 len)) =
      beBytes (extBytes (shortestLen7 len)) len := List.take_left' (beBytes_length _ _)
  rw [wireLength, htake]
  obtain ⟨hle, hl7, hext⟩ | ⟨-, hle, hext⟩ | ⟨-, hext⟩ := shortestLen7_cases len
  · rw [if_pos hext, hl7, BitVec.toNat_ofNat]
    omega
  · rw [hext, if_neg (by decide), beNat_beBytes (by omega)]
  · rw [hext, if_neg (by decide), beNat_beBytes (by omega)]

/-- The shortest form passes the checks on the form. -/
theorem checkLengthForm_shortest (c : Ctrl) {len : Nat} (h : len < 2 ^ 63) :
    checkLengthForm c (shortestLen7 len) len = none := by
  have hmin : minimalForm (shortestLen7 len) len = true := by
    rw [← Bool.not_eq_false, minimalForm_eq_false]
    obtain ⟨-, -, hext⟩ | ⟨hlow, -, hext⟩ | ⟨hlow, hext⟩ := shortestLen7_cases len <;> rw [hext] <;> omega
  rw [checkLengthForm, if_neg (by omega), hmin]
  simp

theorem txHeaderBytes_length (h : Byte) (m : Bool) (k : BitVec 32) (len : Nat) :
    (txHeaderBytes h m k len).length = headerLen (shortestLen7 len) m := by
  unfold txHeaderBytes headerLen
  cases m <;> simp [keyBytes] <;> omega

/-- The header stage reads back what `txHeaderBytes` wrote, when its checks let the frame through. -/
theorem parseHeader_txHeaderBytes {c : Ctrl} {mf : Word} {h : Byte} {m : Bool} (k : BitVec 32) {p : List Byte}
    (hb : checkByte0 c h = none) (hr : checkRole c (BitVec.ofBool m ++ shortestLen7 p.length) = none)
    (hlen : p.length < 2 ^ 63) (hmax : checkLength mf (frameOpcode h) p.length = none) :
    parseHeader c mf (txHeaderBytes h m k p.length ++ p) =
      .ok
        { b0 := h
          b1 := BitVec.ofBool m ++ shortestLen7 p.length
          len := p.length
          key := if m then k else 0#32 } := by
  have hbytes : txHeaderBytes h m k p.length ++ p =
      h :: (BitVec.ofBool m ++ shortestLen7 p.length) ::
        (beBytes (extBytes (shortestLen7 p.length)) p.length ++ ((if m then keyBytes k else []) ++ p)) := by
    simp [txHeaderBytes]
  have hall := congrArg List.length hbytes
  rw [List.length_append, txHeaderBytes_length, List.length_cons, List.length_cons] at hall
  have hext : ¬ (beBytes (extBytes (shortestLen7 p.length)) p.length ++
      ((if m then keyBytes k else []) ++ p)).length < extBytes (shortestLen7 p.length) := by
    simp
  rw [hbytes]
  simp only [parseHeader, hb, hr, Option.or_none, len7_append, maskBit_append, if_neg hext, wireLength_shortest hlen,
    checkLengthForm_shortest c hlen, hmax]
  rw [if_neg (by omega), if_neg (by omega)]
  cases m
  · rfl
  · simp only [if_true, List.drop_left' (beBytes_length _ _), List.take_left' (show (keyBytes k).length = 4 from rfl),
      keyOfBytes_keyBytes]

/-! ## The round trip -/

/-- The payload bytes as SER emits them (R204). -/
def wirePayload (s : State) (m : Bool) : List Byte := if m then maskRef s.slice s.key 0 else s.slice

@[simp] theorem wirePayload_length (s : State) (m : Bool) : (wirePayload s m).length = s.aLen.toNat := by
  cases m <;> simp [wirePayload]

/-- The header of the frame SER emits, as the header stage reads it. -/
def sentHeader (s : State) (m : Bool) : FrameHeader where
  b0 := s.txHdr
  b1 := BitVec.ofBool m ++ shortestLen7 s.aLen.toNat
  len := s.aLen.toNat
  key := if m then s.key else 0#32

theorem sentHeader_hdrLen (s : State) (m : Bool) : (sentHeader s m).hdrLen = txLen m s.aLen.toNat := by
  rw [← txHeaderLen_eq, FrameHeader.hdrLen, sentHeader, len7_append, maskBit_append]
  rfl

theorem sentHeader_masked (s : State) (m : Bool) : maskBit (sentHeader s m).b1 = m := maskBit_append m _

/-- The endpoint of the opposite role, about to parse what `t` has emitted. -/
def peer (t : State) (strict acceptUnmasked : Bool) (d : Word) : State :=
  { t with
    ctrl := { t.ctrl with server := !t.ctrl.server, strictLen := strict, acceptUnmasked := acceptUnmasked }
    aSrc := t.aDst, aLen := t.txOutLen, aDst := d }

theorem checkLength_of_le {mf : Word} {op : BitVec 4} {len : Nat} (hc : isControl op → len ≤ 125)
    (hm : len ≤ mf.toNat) : checkLength mf op len = none := by
  have hcontrol : ¬ (controlFrameOpcode op = true ∧ 125 < len) := fun ⟨hop, hlen⟩ =>
    Nat.not_lt.2 (hc ((controlFrameOpcode_iff op).1 hop)) hlen
  rw [checkLength, if_neg hcontrol, if_neg (Nat.not_lt.2 hm)]

/-- The peer's header stage lets through what its sender's checks let through, and reads it back. -/
theorem parseHeader_peer {s : State} {m : Bool} (t : State) (strict acceptUnmasked : Bool) (d : Word)
    (hctrl : t.ctrl = s.ctrl) (hh : txHeaderAccepted s.ctrl s.txHdr s.aLen.toNat) (hr : txRoleAccepted s.ctrl m)
    (hmax : s.aLen.toNat ≤ s.maxFrame.toNat) :
    parseHeader (peer t strict acceptUnmasked d).ctrl s.maxFrame (txFrame s m) = .ok (sentHeader s m) := by
  obtain ⟨hb, hcontrol, hlen⟩ := hh
  have hb0 : checkByte0 (peer t strict acceptUnmasked d).ctrl s.txHdr = none := by
    rw [← checkByte0_eq_none, ← hctrl] at hb
    exact hb
  have hrole : checkRole (peer t strict acceptUnmasked d).ctrl (BitVec.ofBool m ++ shortestLen7 s.aLen.toNat) = none := by
    have hserver : (peer t strict acceptUnmasked d).ctrl.server = m := by
      rw [hr, ← hctrl]
      rfl
    rw [checkRole_eq_none, maskBit_append, roleAccepted, hserver]
    exact ⟨.inl, id⟩
  have hp := parseHeader_txHeaderBytes (mf := s.maxFrame) (m := m) s.key (p := wirePayload s m) hb0
    (by rwa [wirePayload_length]) (by rwa [wirePayload_length])
    (by rw [wirePayload_length]; exact checkLength_of_le hcontrol hmax)
  rw [wirePayload_length] at hp
  rw [← txHeaderBytes_append_payload]
  exact hp

/-- The payload placed by a PARSE ending OK is where `RX_PAYLOAD` says. -/
theorem State.placePayload_reads {p : State} {h : FrameHeader} (z : Bool) {bs : List Byte} (c : RxClose)
    (hlen : bs.length = h.len) (hd : z = false → p.inRange p.aDst.toNat h.len = true)
    (hwin : p.aSrc.toNat + (h.hdrLen + h.len) ≤ 2 ^ 64)
    (hplain : maskBit h.b1 = false → p.mem.readBytes (p.aSrc.toNat + h.hdrLen) h.len = bs) :
    ∃ m addr, p.placePayload z h bs c = (p.parseDone h addr c).setMem m ∧ m.readBytes addr.toNat h.len = bs := by
  cases z with
  | false =>
    refine ⟨_, _, State.placePayload_of_in bs c (hd rfl), ?_⟩
    rw [← hlen, Memory.readBytes_writeBytes]
  | true =>
    refine ⟨_, _, p.placePayload_in_place h bs c, ?_⟩
    by_cases h0 : h.len = 0
    · rw [h0, List.eq_nil_of_length_eq_zero (hlen.trans h0)]
      rfl
    · have haddr : (p.aSrc + BitVec.ofNat 64 h.hdrLen).toNat = p.aSrc.toNat + h.hdrLen := by
        rw [BitVec.toNat_add, BitVec.toNat_ofNat]
        omega
      rw [haddr]
      cases hm : maskBit h.b1 with
      | false => exact hplain hm
      | true =>
        rw [if_pos rfl, ← hlen, Memory.readBytes_writeBytes]

/-- Behind its header the emitted frame holds the wire's payload. -/
theorem txFrame_drop_take (s : State) (m : Bool) :
    ((txFrame s m).drop (sentHeader s m).hdrLen).take (sentHeader s m).len = wirePayload s m := by
  have hhdr : (txHeaderBytes s.txHdr m s.key s.aLen.toNat).length = (sentHeader s m).hdrLen := by
    rw [txHeaderBytes_length, sentHeader_hdrLen, ← txHeaderLen_eq, txHeaderLen]
  rw [← txHeaderBytes_append_payload, List.drop_left' hhdr]
  exact List.take_of_length_le (wirePayload_length s m).le

/-- Unmasking the wire's payload with the header's key gives the sender's slice back. -/
theorem unmask_wirePayload (s : State) (m : Bool) :
    (if m then maskRef (wirePayload s m) (sentHeader s m).key 0 else wirePayload s m) = s.slice := by
  cases m
  · rfl
  · exact maskRef_maskRef s.slice s.key 0

theorem State.parsePayload_of_close {s : State} {buf p : List Byte} {h : FrameHeader} {c : RxClose} (z : Bool)
    (hp : (if maskBit h.b1 then maskRef ((buf.drop h.hdrLen).take h.len) h.key 0 else (buf.drop h.hdrLen).take h.len) = p)
    (hc : rxCloseOf (frameOpcode h.b0) p = .ok c) : s.parsePayload z buf h = s.placePayload z h p c := by
  simp only [State.parsePayload, State.maskPayload_eq, hp, hc]

/-- The peer's buffered bytes are the emitted frame, and stand in the window. -/
theorem peer_slice {s : State} {m : Bool} (strict acceptUnmasked : Bool) (d : Word) (hlen : s.aLen.toNat < 2 ^ 63)
    (hwin : s.aDst.toNat + (txLen m s.aLen.toNat + s.aLen.toNat) ≤ s.cfg.memBytes) :
    (peer (serialized s m) strict acceptUnmasked d).slice = txFrame s m ∧
      (peer (serialized s m) strict acceptUnmasked d).inRange s.aDst.toNat
        (peer (serialized s m) strict acceptUnmasked d).aLen.toNat = true := by
  have hsize : (peer (serialized s m) strict acceptUnmasked d).aLen.toNat = (txFrame s m).length :=
    (toNat_frameSize m hlen).trans (txFrame_length s m).symm
  refine ⟨?_, ?_⟩
  · rw [State.slice, hsize]
    exact Memory.readBytes_writeBytes _ _ _
  · rw [hsize, txFrame_length, State.inRange_iff_of_pos _ (Nat.add_pos_left (txLen_pos m _) _)]
    exact hwin

/-- Settles O34: the peer's header stage reads the sent header, and its payload stage unmasks and places the sent payload. -/
theorem serializeThenParseRoundTrip : Obligations.SerializeThenParseRoundTrip := by
  intro s t z strict acceptUnmasked d hh hmax hclose hd hser hok
  obtain ⟨-, hr, hwin, rfl⟩ := serialized_of_ok hser hok
  change ∃ u, exec (.parse z) (peer (serialized s _) strict acceptUnmasked d) = .next u ∧ _
  generalize (!s.ctrl.server) = m at *
  obtain ⟨hslice, hin⟩ := peer_slice strict acceptUnmasked d hh.2.2 hwin
  have hparse := parseHeader_peer (s := s) (serialized s m) strict acceptUnmasked d rfl hh hr hmax
  have hplain := unmask_wirePayload s m
  rw [← txFrame_drop_take] at hplain
  obtain ⟨c, hc⟩ : ∃ c, rxCloseOf (frameOpcode s.txHdr) s.slice = .ok c := by
    by_cases hop : frameOpcode s.txHdr = 8#4
    · rw [rxCloseOf_close hop]
      obtain hnil | ⟨c0, c1, reason, hreason, hvalid⟩ := hclose hop
      · exact ⟨_, by rw [hnil]; rfl⟩
      · exact ⟨_, by rw [hreason, closeDecode_of_accept c0 c1 ((validUtf8_iff reason).1 hvalid)]⟩
    · exact ⟨_, rxCloseOf_of_ne hop _⟩
  have hexec : exec (.parse z) (peer (serialized s m) strict acceptUnmasked d) =
      .next ((peer (serialized s m) strict acceptUnmasked d).placePayload z (sentHeader s m) s.slice c) := by
    rw [← State.parsePayload_of_close z (by rw [sentHeader_masked]; exact hplain) hc,
      ← State.parseBuffer_of_ok z hin hparse, ← hslice]
    rfl
  have hhdr := sentHeader_hdrLen s m
  obtain ⟨mem, addr, hplace, hread⟩ :=
    (State.placePayload_reads (p := peer (serialized s m) strict acceptUnmasked d) (h := sentHeader s m) z c
      s.slice_length hd (by
        rw [hhdr]
        exact hwin.trans (memBytes_le _)) fun hm => by
        have hsent : (sentHeader s m).hdrLen + (sentHeader s m).len ≤ (txFrame s m).length := by
          rw [hhdr, txFrame_length]
          rfl
        rw [sentHeader_masked] at hm
        subst hm
        exact (Memory.readBytes_writeBytes_part _ _ _ _ _ hsent).trans hplain)
  refine ⟨_, hexec, ?_⟩
  rw [hplace]
  refine ⟨rfl, rfl, ?_, ?_, hread⟩
  · exact (BitVec.ofNat_toNat 64 s.aLen).trans (BitVec.setWidth_eq _)
  · exact congrArg (fun n => BitVec.ofNat 64 (n + s.aLen.toNat)) hhdr

end Sys2Proof.Machine
end
